-- ==== Sys2Proof/Word.lean ====
section
/-! DEFINITION. The word types of the block: bytes and 16-bit quantities (spec/00_scope.md R7). All are unsigned;
the block has no signed quantity, no carry and no flags (R20, R77). -/

namespace Sys2Proof

/-- A byte: 8 bits, unsigned (R7). -/
abbrev Byte := BitVec 8

/-- A 16-bit unsigned quantity: a length, an index or a read value (R13, R15, R17, R22, R41). -/
abbrev Half := BitVec 16

end Sys2Proof
end

