-- ==== Sys2Proof/Config.lean ====
section
/-! DEFINITION. The parameters the spec leaves open (spec/00_scope.md R6) and the free values. The parameters are
plain data and are carried in State (log 1), so that a statement about all states holds for every admissible value of
them. The free values are constants without a body (log 6, log 7): nothing can be proved about what they are. -/

namespace Sys2Proof

/-- The open parameters of R6 that some rule reads. `bufCap` is admissible by its type; `Config.wf` says the rest. -/
structure Config where
  /-- `SEQ_RESET`: the value of `SEQ` after reset, any 8-bit value (D4). -/
  seqReset : Byte
  /-- `BUF_CAP`: the capacity of `BODY` in bytes, 0 to 65535 (D10). -/
  bufCap : Fin 65536
  /-- `TIMER_W`: the width in bits of `TIMER` and of the `timeout` operand, at least 1 (D11). -/
  timerW : Nat
  /-- `RXQ_CAP`: the capacity of the Transport's receive queue, at least 6; `none` is unbounded (D23). -/
  rxqCap : Option Nat
  deriving DecidableEq, Repr

/-- The ranges of R6: `TIMER_W` at least 1, `RXQ_CAP` at least 6 or unbounded. -/
def Config.wf (c : Config) : Bool :=
  decide (1 ≤ c.timerW) && c.rxqCap.all fun n => decide (6 ≤ n)

/-- The defaults R6 suggests: `SEQ_RESET` 0x00, `BUF_CAP` 65535, `TIMER_W` 32, `RXQ_CAP` unbounded. -/
def Config.suggested : Config :=
  { seqReset := 0x00, bufCap := 65535, timerW := 32, rxqCap := none }

/-- `TICK_PERIOD`: a duration in an unstated unit; the spec gives no value and no rule reads it (R6, D11; log 2). -/
opaque Config.tickPeriod : Nat

/-- What `IDX` holds after the n-th moment at which it became unspecified (R29, R180; log 6). -/
opaque Config.freeIdx : Nat → Half

/-- What `TSEQ` holds when it is unspecified (R15, R180; log 6). -/
opaque Config.freeTseq : Nat → Byte

/-- What `TXLEN` holds when it is unspecified (R15, R180; log 6). -/
opaque Config.freeTxlen : Nat → Half

/-- What `PAY` holds when it is unspecified, its length included (R15, R180; log 6). -/
opaque Config.freePay : Nat → List Byte

/-- The byte a host presents in place of an announced body byte it did not bring with its `SEND` (R52; log 12); the
first argument counts such `SEND`s, the second is the byte's place among the missing ones. -/
opaque Config.freePayload : Nat → Nat → Byte

/-- What `HDR[i]` holds when it is unspecified; the second argument is i (R16, R180; log 6). -/
opaque Config.freeHdr : Nat → Nat → Byte

/-- What `SIZE` holds when it is unspecified (R17, R180; log 6). -/
opaque Config.freeSize : Nat → Half

/-- What `MAXLEN` holds when it is unspecified (R17, R180; log 6). -/
opaque Config.freeMaxlen : Nat → Half

/-- What `FLN` holds when it is unspecified (R19, R180; log 6). -/
opaque Config.freeFln : Nat → Nat

/-- What `BODY[i]` holds when it is unspecified; the second argument is i (R23, R101, R165; log 7). -/
opaque Config.freeBody : Nat → Nat → Byte

end Sys2Proof
end

