-- ==== Sys2Proof/Syntax.lean ====
section
/-! DEFINITION. The operations of the block, one constructor per row of spec/opcode_table.json (R2), and the words on
which they reach it: command words, read words and the bytes of the receive line (R41, R60, R71, R74). -/

namespace Sys2Proof

/-- The operations. Lengths and payload are kept as the ports carry them (R71, R81): `cp` is the first `cpLen` bytes
of `payload` and `data` the `dataLen` bytes after it. -/
inductive Instr where
  /-- `FRAME_V2_HEADER`: one frame on the receive line (R60). The checksum byte may be any byte: judging it is the
  deframer's business (R109; log 14). -/
  | frameV2Header (sequence : Byte) (length : Half) (body : List Byte) (checksum : Byte)
  /-- `NOP` (R133). -/
  | nop
  /-- `SEND [cp],[data]` (R81, R82). -/
  | send (cpLen dataLen : Half) (payload : List Byte)
  /-- `AWAIT maxlen, timeout` (R101). -/
  | await (maxlen : Half) (timeout : Nat)
  /-- `FLUSH` (R131). -/
  | flush
  /-- The reserved opcodes 0100 to 1111 (R73). -/
  | reserved4
  | reserved5
  | reserved6
  | reserved7
  | reserved8
  | reserved9
  | reservedA
  | reservedB
  | reservedC
  | reservedD
  | reservedE
  | reservedF
  /-- `RDSEQ` (R134). -/
  | rdseq
  /-- `RDSTAT` (R135). -/
  | rdstat
  /-- `RDLEN` (R136). -/
  | rdlen
  /-- `RDBODY i` (R137). -/
  | rdbody (i : Half)
  /-- `XACT [cp],[data], maxlen, timeout`: `SEND` then `AWAIT` (R76). -/
  | xact (cpLen dataLen : Half) (payload : List Byte) (maxlen : Half) (timeout : Nat)
  /-- `SYNCTRY [cp], maxlen, timeout`: `FLUSH` then `SEND` then `AWAIT` (R76). -/
  | synctry (cpLen : Half) (payload : List Byte) (maxlen : Half) (timeout : Nat)
  deriving DecidableEq, Repr

/-- What the host drives at the command port and the payload port with one command (R41, R71). `t` stands for the
`TIMER_W` wires of `cmd_t`; a value they cannot carry is ill-formed (log 20). -/
structure CmdWord where
  op : BitVec 4
  a : Half
  b : Half
  t : Nat
  payload : List Byte
  deriving DecidableEq, Repr

/-- What the host drives at the read port (R41, R74). -/
structure ReadWord where
  sel : BitVec 2
  addr : Half
  deriving DecidableEq, Repr

/-- One issue of an operation: the command words offered one after another (one for a command, two or three for a
pseudo-operation, R76; log 18), a read word, or a byte string on the receive line. -/
inductive Issue where
  | command (ws : List CmdWord)
  | read (w : ReadWord)
  | wire (bytes : List Byte)
  deriving DecidableEq, Repr

/-- Who moves next, with what it brings (R9; log 3). -/
inductive Turn where
  /-- The block takes its internal transition, if one is enabled. -/
  | block
  /-- The host's offer at the command port is looked at. -/
  | command
  /-- The host makes a read. -/
  | read (w : ReadWord)
  /-- A byte string arrives on the receive line at once, a frame or not. -/
  | wire (bytes : List Byte)
  /-- The environment event `arrive(b)`. -/
  | arrive (b : Byte)
  /-- The environment event `tick`. -/
  | tick
  /-- The environment event `rst`. -/
  | rst
  /-- The Transport changes `tx_ready` (R41, R88). -/
  | txReady (r : Bool)
  deriving DecidableEq, Repr

/-- Why a word sequence or a byte string is no operation. -/
inductive Reject where
  /-- No command word at all. -/
  | noWord
  /-- Two or more command words that are not the expansion of a pseudo-operation (R76). -/
  | notAPseudoOperation
  /-- Fewer than five bytes: no header (R60). -/
  | shortHeader
  /-- Byte 0 is not 0x1B (R61). -/
  | badStart
  /-- Byte 4 is not 0x0E (R64). -/
  | badToken
  /-- The number of bytes is not 6 plus the length field (R63, R67). -/
  | badLength
  deriving DecidableEq, Repr

end Sys2Proof
end

