-- ==== Sys2Proof/WellFormed.lean ====
section
/-! DEFINITION. Which operations are well formed: the operand checks a term of `Instr` must pass to stand for
something the ports and the wire can carry (R60, R63, R71, R81). -/

namespace Sys2Proof

/-- The payload port presents exactly the announced bytes (R52, R81). A pair of lengths above 65535 is refused before
any byte is pulled (R82), so the payload is then not looked at. -/
def payloadFits (cpLen dataLen : Half) (payload : List Byte) : Bool :=
  decide (65535 < cpLen.toNat + dataLen.toNat) || decide (payload.length = cpLen.toNat + dataLen.toNat)

/-- `timeout` is a `TIMER_W`-bit unsigned value (R101). -/
def timeoutFits (c : Config) (timeout : Nat) : Bool :=
  decide (timeout < 2 ^ c.timerW)

/-- The well-formedness of an operation under the parameters `c`. -/
def Instr.wf (c : Config) : Instr → Bool
  | .frameV2Header _ length body _ => decide (body.length = length.toNat)
  | .send cpLen dataLen payload => payloadFits cpLen dataLen payload
  | .await _ timeout => timeoutFits c timeout
  | .xact cpLen dataLen payload _ timeout => payloadFits cpLen dataLen payload && timeoutFits c timeout
  | .synctry cpLen payload _ timeout => payloadFits cpLen 0 payload && timeoutFits c timeout
  | .nop | .flush | .rdseq | .rdstat | .rdlen | .rdbody _ => true
  | .reserved4 | .reserved5 | .reserved6 | .reserved7 | .reserved8 | .reserved9 => true
  | .reservedA | .reservedB | .reservedC | .reservedD | .reservedE | .reservedF => true

end Sys2Proof
end

