-- ==== Sys2Proof/Decode.lean ====
section
/-! DEFINITION. The encodings of spec/30_encoding.md: the byte-order and exclusive-or helpers, the wire frame as pure
functions (R60 to R69), the command word and the read word (R71, R74), the decoder, and after it the encoder. -/

namespace Sys2Proof

/-! ### Byte order and exclusive-or (R42, R63, R77) -/

/-- `v[15:8]` of a 16-bit value (R63). -/
def highByte (v : Half) : Byte := v.extractLsb' 8 8

/-- `v[7:0]` of a 16-bit value (R63). -/
def lowByte (v : Half) : Byte := v.extractLsb' 0 8

/-- The 16-bit value `hi * 256 + lo`, high byte first (R42, R63). -/
def joinBytes (hi lo : Byte) : Half := hi ++ lo

/-- `XOR(s)`: the exclusive-or of all bytes of `s`, 0x00 of the empty string (R7). -/
def xorAll : List Byte → Byte
  | [] => 0x00
  | b :: bs => b ^^^ xorAll bs

/-! ### The wire frame as pure functions (R60, R68, R69) -/

/-- Frame byte 0 (R61). -/
def startByte : Byte := 0x1B

/-- Frame byte 4 (R64). -/
def tokenByte : Byte := 0x0E

/-- The five header bytes of a frame with sequence byte `s` and length field `len` (R60). -/
def headerBytes (s : Byte) (len : Half) : List Byte :=
  [startByte, s, highByte len, lowByte len, tokenByte]

/-- `EncodeV2(s, cp, data)` (R68). The spec leaves it undefined for more than 65535 body bytes. That the definition
still gives a string there, with the length modulo 65536 in the length field, is the model's (DESIGN CHOICE, log 30): no
meaning calls it, and every statement for the provers keeps to the bound. -/
def encodeV2 (s : Byte) (cp data : List Byte) : List Byte :=
  let pre := headerBytes s (BitVec.ofNat 16 (cp.length + data.length)) ++ cp ++ data
  pre ++ [xorAll pre]

/-- `WellFormed(f)` (R69): at least 6 bytes, the two constants, the length field true, the exclusive-or 0x00. -/
def frameWellFormed (f : List Byte) : Bool :=
  decide (6 ≤ f.length) && f.getD 0 0 == startByte && f.getD 4 0 == tokenByte
    && f.length == 6 + (joinBytes (f.getD 2 0) (f.getD 3 0)).toNat && xorAll f == 0x00

/-- `Parse(f)` (R69): the sequence byte and the body, meaningful for a well-formed `f`. -/
def parseFrame (f : List Byte) : Byte × List Byte :=
  (f.getD 1 0, (f.drop 5).dropLast)

/-! ### Decoding (R60, R71, R73, R74, R76) -/

/-- The operation of one command word (R71). All sixteen opcodes have a meaning: 0100 to 1111 are the reserved ones
(R73). Operand inputs the opcode does not use are ignored (V8). -/
def decodeCommand (w : CmdWord) : Instr :=
  match w.op.toNat with
  | 0 => .nop
  | 1 => .send w.a w.b w.payload
  | 2 => .await w.a w.t
  | 3 => .flush
  | 4 => .reserved4
  | 5 => .reserved5
  | 6 => .reserved6
  | 7 => .reserved7
  | 8 => .reserved8
  | 9 => .reserved9
  | 10 => .reservedA
  | 11 => .reservedB
  | 12 => .reservedC
  | 13 => .reservedD
  | 14 => .reservedE
  | _ => .reservedF

/-- The operation of a sequence of command words issued together: one word is a command, `SEND AWAIT` is `XACT`, and
`FLUSH SEND AWAIT` with an empty data part is `SYNCTRY` (R76; log 18). -/
def decodeCommands : List CmdWord → Except Reject Instr
  | [] => .error .noWord
  | [w] => .ok (decodeCommand w)
  | [s, a] =>
    if s.op = 1 ∧ a.op = 2 then .ok (.xact s.a s.b s.payload a.a a.t) else .error .notAPseudoOperation
  | [f, s, a] =>
    if f.op = 3 ∧ s.op = 1 ∧ s.b = 0 ∧ a.op = 2 then .ok (.synctry s.a s.payload a.a a.t)
    else .error .notAPseudoOperation
  | _ :: _ :: _ :: _ :: _ => .error .notAPseudoOperation

/-- The read of one read word; `rd_addr` counts for `RDBODY` only (R74). -/
def decodeRead (w : ReadWord) : Instr :=
  match w.sel.toNat with
  | 0 => .rdseq
  | 1 => .rdstat
  | 2 => .rdlen
  | _ => .rdbody w.addr

/-- The frame of a byte string on the receive line: five header bytes, as many body bytes as the length field says,
one checksum byte (R60, R67, R70). -/
def decodeWire : List Byte → Except Reject Instr
  | start :: sequence :: hi :: lo :: token :: rest =>
    if start ≠ startByte then .error .badStart
    else if token ≠ tokenByte then .error .badToken
    else if rest.length ≠ (joinBytes hi lo).toNat + 1 then .error .badLength
    else .ok (.frameV2Header sequence (joinBytes hi lo) rest.dropLast (rest.getLastD 0))
  | _ => .error .shortHeader

/-- The decoder: total, and rejecting by name. -/
def decode : Issue → Except Reject Instr
  | .command ws => decodeCommands ws
  | .read w => .ok (decodeRead w)
  | .wire bytes => decodeWire bytes

/-! ### Encoding, from the same tables -/

/-- A command word without operands; the inputs the opcode ignores are driven 0 (R71; log 11). -/
def plainWord (op : BitVec 4) : CmdWord := { op := op, a := 0, b := 0, t := 0, payload := [] }

/-- The command word of `SEND` (R71, R81). -/
def sendWord (cpLen dataLen : Half) (payload : List Byte) : CmdWord :=
  { op := 1, a := cpLen, b := dataLen, t := 0, payload := payload }

/-- The command word of `AWAIT` (R71, R101). -/
def awaitWord (maxlen : Half) (timeout : Nat) : CmdWord :=
  { op := 2, a := maxlen, b := 0, t := timeout, payload := [] }

/-- The bytes of a frame on the receive line, byte 0 first (R60). -/
def wireBytes (sequence : Byte) (length : Half) (body : List Byte) (checksum : Byte) : List Byte :=
  headerBytes sequence length ++ body ++ [checksum]

/-- The words an operation is issued as. -/
def encode : Instr → Issue
  | .frameV2Header sequence length body checksum => .wire (wireBytes sequence length body checksum)
  | .nop => .command [plainWord 0x0]
  | .send cpLen dataLen payload => .command [sendWord cpLen dataLen payload]
  | .await maxlen timeout => .command [awaitWord maxlen timeout]
  | .flush => .command [plainWord 0x3]
  | .reserved4 => .command [plainWord 0x4]
  | .reserved5 => .command [plainWord 0x5]
  | .reserved6 => .command [plainWord 0x6]
  | .reserved7 => .command [plainWord 0x7]
  | .reserved8 => .command [plainWord 0x8]
  | .reserved9 => .command [plainWord 0x9]
  | .reservedA => .command [plainWord 0xA]
  | .reservedB => .command [plainWord 0xB]
  | .reservedC => .command [plainWord 0xC]
  | .reservedD => .command [plainWord 0xD]
  | .reservedE => .command [plainWord 0xE]
  | .reservedF => .command [plainWord 0xF]
  | .rdseq => .read { sel := 0, addr := 0 }
  | .rdstat => .read { sel := 1, addr := 0 }
  | .rdlen => .read { sel := 2, addr := 0 }
  | .rdbody i => .read { sel := 3, addr := i }
  | .xact cpLen dataLen payload maxlen timeout =>
    .command [sendWord cpLen dataLen payload, awaitWord maxlen timeout]
  | .synctry cpLen payload maxlen timeout =>
    .command [plainWord 0x3, sendWord cpLen 0 payload, awaitWord maxlen timeout]

/-! ### The words of spec/opcode_table.json (log 21) -/

/-- The 40-bit header word of the table, byte 0 in bits 39 to 32 (R60), as five bytes in wire order, followed by as
many zero body bytes as its length field says and a zero checksum byte. -/
def wireOfTableWord (w : Nat) : List Byte :=
  let hi := BitVec.ofNat 8 (w >>> 16)
  let lo := BitVec.ofNat 8 (w >>> 8)
  [BitVec.ofNat 8 (w >>> 32), BitVec.ofNat 8 (w >>> 24), hi, lo, BitVec.ofNat 8 w]
    ++ List.replicate (joinBytes hi lo).toNat 0 ++ [0]

/-- The issue a table word stands for, its port told by its size: up to 2 bits a read select, up to 8 bits a command
opcode with all operand inputs 0, more a frame header. The 2-bit selects and the 4-bit opcodes have the same words
when both are given as 8 bits; such a word is taken as a command (log 21). -/
def issueOfTableWord (nbits w : Nat) : Issue :=
  if nbits ≤ 2 then .read { sel := BitVec.ofNat 2 w, addr := 0 }
  else if nbits ≤ 8 then .command [plainWord (BitVec.ofNat 4 w)]
  else .wire (wireOfTableWord w)

/-- The operation the decoder reads from a word of the opcode table; none where it rejects. -/
def decodeTableWord (nbits w : Nat) : Option Instr :=
  (decode (issueOfTableWord nbits w)).toOption

end Sys2Proof
end

