-- ==== Sys2Proof/Machine/State.lean ====
section
/-! DEFINITION. The state of the block, of its ports and of the model's own book-keeping, as plain data
(spec/10_state.md R10 to R29), the reasons a step can stop, and the state after reset (R29). -/

namespace Sys2Proof.Machine

/-- `PHASE` (R12): which operation is in progress and where in the frame the block stands. No binary encoding (V16). -/
inductive Phase where
  /-- No operation in progress. -/
  | idle
  /-- A `SEND` is emitting the header. -/
  | txHdr
  /-- A `SEND` is emitting the body. -/
  | txBody
  /-- A `SEND` is emitting the checksum. -/
  | txCks
  /-- An `AWAIT` is waiting for six buffered bytes. -/
  | rxWait
  /-- An `AWAIT` is reading the header. -/
  | rxHdr
  /-- An `AWAIT` is checking the header. -/
  | rxChk
  /-- An `AWAIT` is reading the body. -/
  | rxBody
  /-- An `AWAIT` is reading and checking the checksum. -/
  | rxCks
  /-- A `FLUSH` is discarding bytes. -/
  | fl
  deriving DecidableEq, Repr

/-- The outcome codes `STATUS` can hold (R21). The kept-free and reserved codes are never produced (V6) and have no
name here; the 4-bit number of a code is `Code.bits` of Flags.lean. -/
inductive Code where
  | ok
  | timeout
  | malformedHeader
  | sequenceMismatch
  | checksumMismatch
  | responseTooLarge
  | illegalCommand
  | illegalOperand
  | busy
  deriving DecidableEq, Repr

/-- `HDR[0]` to `HDR[4]` (R16), under the names of the frame bytes they latch (R60). -/
structure Header where
  start : Byte
  sequence : Byte
  lenHi : Byte
  lenLo : Byte
  token : Byte
  deriving DecidableEq, Repr

/-- The whole state. -/
structure State where
  /-- The open parameters (R6). Constant along every run (log 1). -/
  cfg : Config
  /-- `SEQ`, the sequence-number register (R11). -/
  seq : Byte
  /-- `PHASE` (R12). -/
  phase : Phase
  /-- `IDX`, the byte index within the phase (R13). -/
  idx : Half
  /-- `CKS`, the running exclusive-or (R14). -/
  cks : Byte
  /-- `TSEQ`, the sequence byte of the `SEND` in progress (R15). -/
  tseq : Byte
  /-- `TXLEN`, its body length (R15). -/
  txlen : Half
  /-- `PAY`, its body (R15). -/
  pay : List Byte
  /-- `HDR[0..4]` (R16). -/
  hdr : Header
  /-- `SIZE`, the declared length of a header that passed the structure and sequence checks (R17). -/
  size : Half
  /-- `MAXLEN`, the bound of the `AWAIT` in progress (R17). -/
  maxlen : Half
  /-- `TIMER`, a `TIMER_W`-bit down-counter (R18). -/
  timer : Nat
  /-- `FLN`, the bytes a `FLUSH` still has to discard (R19). -/
  fln : Nat
  /-- `STATUS` (R21). -/
  status : Code
  /-- `RESP_LEN` (R22). -/
  respLen : Half
  /-- `BODY` (R23): the bytes written since it last became unspecified, by rising index. An index that is not listed
  holds a free value (log 7). -/
  body : List Host.Cell
  /-- `RXQ`, the Transport's receive queue, oldest byte first (R24). -/
  rxq : List Byte
  /-- `TXLOG`, every byte handed to the Transport, oldest first (R25). -/
  txlog : List Byte
  /-- `tx_ready`: the Transport takes a byte (R41, R83, R88). -/
  txReady : Bool
  /-- The offers the host holds at the command port, the one it offers now first (R41, R72). -/
  cmdPort : List (List CmdWord)
  /-- What the read port answered last: `some d` for `rd_ok = 1` with `rd_data = d`, `none` for `rd_ok = 0` or no read
  yet (R41, R74; log 9). -/
  rdOut : Option Half
  /-- MODEL: how often values have become unspecified so far (log 8). -/
  fresh : Nat
  /-- MODEL: how many `SEND`s were accepted without all the bytes they announce (log 12). -/
  payFresh : Nat
  /-- MODEL: whose turn it is next (R9; log 3). -/
  agenda : List Turn
  deriving DecidableEq, Repr

/-- The machine stops. No state that satisfies the invariants of R28 reaches one of these (log 23). -/
inductive Fault where
  /-- Raised by the steps `TX_HDR` and `RX_HDR` when `IDX` is 5 or more: there is no such header byte (R13). Safe. -/
  | headerIndexOutside (i : Half)
  /-- Raised by the step `TX_BODY` when `IDX` is not below the length of `PAY` (R13, R28 (e)). Safe. -/
  | payloadIndexOutside (i : Half)
  /-- Raised by the step `RX_BODY` when `IDX` is not below `BUF_CAP` (R28 (d), R46). Safe. -/
  | bodyIndexOutside (i : Half)
  deriving DecidableEq, Repr

/-- The machine does not say what happens. -/
inductive Refusal where
  /-- Raised by `exec` for an instruction that has no meaning yet. Safe. -/
  | notModelled (mnemonic : String)
  /-- Raised by the turn of the command port when several words are issued as one that are no pseudo-operation, or no
  word at all: not an operation of R71 or R76 (log 19). Safe. -/
  | undecodable (r : Reject)
  deriving DecidableEq, Repr

/-- The machine right after reset (R29), with the parameters R6 suggests (log 1). The registers R29 leaves unspecified
hold zero here (log 5); queue, log, ports and agenda are empty (log 24, log 9, log 3) and the Transport is ready
(log 17). -/
def State.reset : State :=
  { cfg := Config.suggested
    seq := Config.suggested.seqReset
    phase := .idle
    idx := 0
    cks := 0x00
    tseq := 0x00
    txlen := 0
    pay := []
    hdr := { start := 0, sequence := 0, lenHi := 0, lenLo := 0, token := 0 }
    size := 0
    maxlen := 0
    timer := 0
    fln := 0
    status := .ok
    respLen := 0
    body := []
    rxq := []
    txlog := []
    txReady := true
    cmdPort := []
    rdOut := none
    fresh := 0
    payFresh := 0
    agenda := [] }

end Sys2Proof.Machine
end

