-- ==== Sys2Proof/Machine/Flags.lean ====
section
/-! DEFINITION. The condition state of the block (spec/10_state.md R20 to R22, R27): there are no arithmetic flags;
what stands in their place is `STATUS`, its numbers, and the derived `BUSY`. -/

namespace Sys2Proof.Machine

/-- The 4-bit number of an outcome code (table of R21). -/
def Code.bits : Code → BitVec 4
  | .ok => 0x0
  | .timeout => 0x1
  | .malformedHeader => 0x2
  | .sequenceMismatch => 0x3
  | .checksumMismatch => 0x4
  | .responseTooLarge => 0x5
  | .illegalCommand => 0x9
  | .illegalOperand => 0xA
  | .busy => 0xF

/-- A `SEND` is in progress. -/
def Phase.isTx : Phase → Bool
  | .txHdr | .txBody | .txCks => true
  | .idle | .rxWait | .rxHdr | .rxChk | .rxBody | .rxCks | .fl => false

/-- An `AWAIT` is in progress; the phases in which `TIMER` counts (R18, R161). -/
def Phase.isRx : Phase → Bool
  | .rxWait | .rxHdr | .rxChk | .rxBody | .rxCks => true
  | .idle | .txHdr | .txBody | .txCks | .fl => false

/-- `BUSY` (R27): an operation is in progress. -/
def State.busy (s : State) : Bool := decide (s.phase ≠ .idle)

/-- The value `RDSTAT` reads: bit 7 `BUSY`, bits 3 to 0 `STATUS`, every other bit 0 (R135, V7). -/
def State.statWord (s : State) : Half :=
  (BitVec.ofBool s.busy).setWidth 16 <<< 7 ||| s.status.bits.setWidth 16

end Sys2Proof.Machine
end

