-- ==== Sys2Proof/Machine/Operands.lean ====
section
/-! DEFINITION. The operand forms: lengths, sequence bytes, the header registers by index, and the running indices
into `PAY` and `BODY` (spec/20_memory.md R44, spec/30_encoding.md R77). -/

namespace Sys2Proof.Machine

/-- `|cp| + |data|` of a `SEND`, computed without wrapping (R77 (d)). -/
def totalLength (cpLen dataLen : Half) : Nat := cpLen.toNat + dataLen.toNat

/-- The largest value of the length field (R5). -/
def lenMax : Nat := 65535

/-- `MIN_FRAME`: how many buffered bytes the deframer waits for (R5, R77 (g)). -/
def minFrame : Nat := 6

/-- The header byte a `SEND` emits at `IDX`: start, `TSEQ`, `TXLEN` high, `TXLEN` low, token (R83). -/
def State.txHeaderByte (s : State) : Option Byte :=
  (headerBytes s.tseq s.txlen)[s.idx.toNat]?

/-- `PAY[IDX]` (R84). -/
def State.payByte (s : State) : Option Byte := s.pay[s.idx.toNat]?

/-- `cp ∥ data` as the payload port presents it (R52, R81): the first `n` of the bytes brought, and for each that is
missing, against the duty of R52, a free value (log 12). -/
def State.presented (s : State) (payload : List Byte) (n : Nat) : List Byte :=
  payload.take n ++ (List.range (n - payload.length)).map (Config.freePayload s.payFresh)

/-- `HDR[i] <- b` (R16, R103); nothing for an index that is no header register. -/
def Header.latch (h : Header) (i : Nat) (b : Byte) : Header :=
  match i with
  | 0 => { h with start := b }
  | 1 => { h with sequence := b }
  | 2 => { h with lenHi := b }
  | 3 => { h with lenLo := b }
  | 4 => { h with token := b }
  | _ => h

/-- The five latched bytes in order. -/
def Header.bytes (h : Header) : List Byte := [h.start, h.sequence, h.lenHi, h.lenLo, h.token]

/-- The structure check (R105): byte 0 and byte 4 are the two constants. -/
def Header.structureOk (h : Header) : Bool := h.start == startByte && h.token == tokenByte

/-- The sequence check (R62, R106, R77 (b)): `(HDR[1] + 1) mod 256 = SEQ`. -/
def Header.sequenceOk (h : Header) (seq : Byte) : Bool := h.sequence + 1 == seq

/-- The declared length (R63, R107). -/
def Header.length (h : Header) : Half := joinBytes h.lenHi h.lenLo

/-- `BODY[i]` (R23): the byte written there, or a free value where none has been written since the buffer last became
unspecified (log 7). -/
def State.bodyByte (s : State) (i : Nat) : Byte :=
  match s.body.find? (fun c => c.1 == i) with
  | some c => c.2
  | none => Config.freeBody s.fresh i

end Sys2Proof.Machine
end

