-- ==== Sys2Proof/Machine/Ops.lean ====
section
/-! DEFINITION. The shared operations of the block: the primitives of spec/00_scope.md R8 (`emit`, `pop`, `complete`,
`fail`, `refuse`), the memory `BODY`, the hold of the command port, the read port, and what makes values unspecified. -/

namespace Sys2Proof.Machine

/-! ### The memory `BODY` (R23, R46) -/

/-- Puts one byte into a list of cells by rising index, in place of the byte that was there. -/
def writeCell : List Host.Cell → Nat → Byte → List Host.Cell
  | [], i, b => [(i, b)]
  | c :: cs, i, b =>
    if i < c.1 then (i, b) :: c :: cs
    else if i = c.1 then (i, b) :: cs
    else c :: writeCell cs i b

/-- The canonical form of a list of cells: indices strictly rising. An index that is not listed reads as no value of
the list, so no entry can equal it (log 7). -/
def Memory.wf : List Host.Cell → Bool
  | [] => true
  | [_] => true
  | c :: d :: cs => decide (c.1 < d.1) && Memory.wf (d :: cs)

/-- `BODY[i] <- b` (R8, R108). -/
def State.writeBody (s : State) (i : Nat) (b : Byte) : State :=
  { s with body := writeCell s.body i b }

/-- The contents of `BODY` become unspecified (R23, R101, R165): no byte of it is known any more (log 7, log 8). -/
def State.forgetBody (s : State) : State :=
  { s with body := [], fresh := s.fresh + 1 }

/-! ### The two byte streams (R24, R25, R40) -/

/-- `emit(b)` (R8): the byte is handed to the Transport and folded into `CKS` by the caller, not here. -/
def State.emit (s : State) (b : Byte) : State :=
  { s with txlog := s.txlog ++ [b] }

/-- `rx_count` (R8). -/
def State.rxCount (s : State) : Nat := s.rxq.length

/-- What `pop()` leaves in `RXQ` (R8, R24): the bytes behind `rest` are the queue without its head. -/
def State.setRxq (s : State) (rest : List Byte) : State :=
  { s with rxq := rest }

/-- `CKS <- CKS ^ b` (R14). -/
def State.accumulate (s : State) (b : Byte) : State :=
  { s with cks := s.cks ^^^ b }

/-- The receive queue after the arrival of one byte (R24): at the tail; not queued when the queue is full (log 16). -/
def arriveIn (cap : Option Nat) (q : List Byte) (b : Byte) : List Byte :=
  match cap with
  | none => q ++ [b]
  | some n => if q.length < n then q ++ [b] else q

/-- Several bytes arrive in order, one `arrive(b)` each (R75). -/
def State.arriveAll (s : State) (bs : List Byte) : State :=
  { s with rxq := bs.foldl (arriveIn s.cfg.rxqCap) s.rxq }

/-! ### Completion, failure entry, refusal, return (R8, R165, R166) -/

/-- `complete(code)` (R8): the operation ends. There is no other return: the next accepted command goes on (R166). -/
def State.complete (s : State) (c : Code) : State :=
  { s with status := c, phase := .idle }

/-- Failure entry, for every failure kind (R8, R165): `RESP_LEN <- 0`, `STATUS <- code`, `PHASE <- IDLE`, the contents
of `BODY` unspecified. Nothing is saved and nothing is vectored. -/
def State.fail (s : State) (c : Code) : State :=
  { s.forgetBody with respLen := 0, status := c, phase := .idle }

/-- Refusal at acceptance, for every refusal kind (R8, R156, R157): `STATUS <- code` and nothing else. -/
def State.refuse (s : State) (c : Code) : State :=
  { s with status := c }

/-! ### The two host ports (R41, R72, R74) -/

/-- The offer stays at the command port, before every later one: neither accepted nor refused nor lost (R72; log 11). -/
def State.hold (s : State) (ws : List CmdWord) : State :=
  { s with cmdPort := ws :: s.cmdPort }

/-- A command acts in `IDLE` only; in every other phase its offer is held (R72). -/
def whenIdle (ws : List CmdWord) (s : State) (accept : State → State) :
    Host.Outcome State Fault Refusal :=
  if s.phase = .idle then .next (accept s) else .next (s.hold ws)

/-- The read port answers (R74): `some d` with `rd_ok = 1`, `none` with `rd_ok = 0` (log 9, log 10). -/
def State.answer (s : State) (d : Option Half) : State :=
  { s with rdOut := d }

end Sys2Proof.Machine
end

