-- ==== Sys2Proof/Machine/Deframer.lean ====
section
/-! DEFINITION. The deframer and checksum validator: `AWAIT` (spec/41_deframer.md R100 to R117), its acceptance and its
five internal steps. -/

namespace Sys2Proof.Machine

/-- Acceptance of `AWAIT` in `IDLE` (R101). `TIMER` keeps the `TIMER_W` bits of the operand (log 20). -/
def acceptAwait (maxlen : Half) (timeout : Nat) (s : State) : State :=
  if s.cfg.bufCap.val < maxlen.toNat then s.refuse .illegalOperand
  else
    { s.forgetBody with
      maxlen := maxlen
      timer := timeout % 2 ^ s.cfg.timerW
      respLen := 0
      status := .busy
      phase := .rxWait }

/-- `AWAIT maxlen, timeout` (R101; held while busy, R72). -/
def execAwait (maxlen : Half) (timeout : Nat) (s : State) : Host.Outcome State Fault Refusal :=
  whenIdle [awaitWord maxlen timeout] s (acceptAwait maxlen timeout)

/-- What a waiting point does when the data waited for is not there (R162): the failure once `TIMER` is 0, and before
that nothing: no transition is enabled. -/
def State.expire (s : State) : State :=
  if s.timer = 0 then s.fail .timeout else s

/-- Step `RX_WAIT` (R102). -/
def stepRxWait (s : State) : Host.Outcome State Fault Refusal :=
  if minFrame ≤ s.rxCount then .next { s with cks := 0x00, idx := 0, phase := .rxHdr }
  else .next s.expire

/-- Step `RX_HDR` (R103). With an empty queue, which R28 (c) excludes, `pop()` is not enabled (R8; log 22). -/
def stepRxHdr (s : State) : Host.Outcome State Fault Refusal :=
  match s.rxq with
  | [] => .next s
  | b :: rest =>
    if s.idx.toNat < 5 then
      let t := { (s.setRxq rest).accumulate b with hdr := s.hdr.latch s.idx.toNat b, idx := s.idx + 1 }
      if t.idx = 5 then .next { t with phase := .rxChk } else .next t
    else .fault (.headerIndexOutside s.idx)

/-- Step `RX_CHK` (R104 to R107): structure, sequence, size, in this order. -/
def stepRxChk (s : State) : Host.Outcome State Fault Refusal :=
  if s.hdr.structureOk = false then .next (s.fail .malformedHeader)
  else if s.hdr.sequenceOk s.seq = false then .next (s.fail .sequenceMismatch)
  else
    let t := { s with size := s.hdr.length }
    if t.maxlen < t.size then .next (t.fail .responseTooLarge)
    else .next { t with idx := 0, phase := if t.size = 0 then .rxCks else .rxBody }

/-- Step `RX_BODY` (R108). -/
def stepRxBody (s : State) : Host.Outcome State Fault Refusal :=
  match s.rxq with
  | [] => .next s.expire
  | b :: rest =>
    if s.idx.toNat < s.cfg.bufCap.val then
      let t := { ((s.setRxq rest).writeBody s.idx.toNat b).accumulate b with idx := s.idx + 1 }
      if t.idx = t.size then .next { t with phase := .rxCks } else .next t
    else .fault (.bodyIndexOutside s.idx)

/-- Step `RX_CKS` (R109, R110). -/
def stepRxCks (s : State) : Host.Outcome State Fault Refusal :=
  match s.rxq with
  | [] => .next s.expire
  | b :: rest =>
    if b = s.cks then .next ({ s.setRxq rest with respLen := s.size }.complete .ok)
    else .next ((s.setRxq rest).fail .checksumMismatch)

end Sys2Proof.Machine
end

