-- ==== Sys2Proof/Machine/Framer.lean ====
section
/-! DEFINITION. The framer: `SEND` (spec/40_framer.md R80 to R89), its acceptance and its three internal steps. -/

namespace Sys2Proof.Machine

/-- Acceptance of `SEND` in `IDLE` (R82). `PAY` is captured here (R52). Bytes beyond the announced ones are not pulled;
where the host brings fewer, which R52 forbids it, the missing ones are free values (log 12, log 13). -/
def acceptSend (cpLen dataLen : Half) (payload : List Byte) (s : State) : State :=
  let n := totalLength cpLen dataLen
  if lenMax < n then s.refuse .illegalOperand
  else
    { s with
      txlen := BitVec.ofNat 16 n
      pay := s.presented payload n
      payFresh := if payload.length < n then s.payFresh + 1 else s.payFresh
      tseq := s.seq
      seq := s.seq + 1
      cks := 0x00
      idx := 0
      status := .busy
      phase := .txHdr }

/-- `SEND [cp],[data]` (R82; held while busy, R72). -/
def execSend (cpLen dataLen : Half) (payload : List Byte) (s : State) : Host.Outcome State Fault Refusal :=
  whenIdle [sendWord cpLen dataLen payload] s (acceptSend cpLen dataLen payload)

/-- `emit(b); CKS <- CKS ^ b; IDX <- IDX + 1`, the common part of R83 and R84. -/
def State.emitCounted (s : State) (b : Byte) : State :=
  { (s.emit b).accumulate b with idx := s.idx + 1 }

/-- Step `TX_HDR` (R83). -/
def stepTxHdr (s : State) : Host.Outcome State Fault Refusal :=
  if s.txReady then
    match s.txHeaderByte with
    | none => .fault (.headerIndexOutside s.idx)
    | some b =>
      let t := s.emitCounted b
      if t.idx = 5 then .next { t with idx := 0, phase := if t.txlen = 0 then .txCks else .txBody }
      else .next t
  else .next s

/-- Step `TX_BODY` (R84). -/
def stepTxBody (s : State) : Host.Outcome State Fault Refusal :=
  if s.txReady then
    match s.payByte with
    | none => .fault (.payloadIndexOutside s.idx)
    | some b =>
      let t := s.emitCounted b
      if t.idx = t.txlen then .next { t with phase := .txCks } else .next t
  else .next s

/-- Step `TX_CKS` (R85). -/
def stepTxCks (s : State) : Host.Outcome State Fault Refusal :=
  if s.txReady then .next ((s.emit s.cks).complete .ok) else .next s

end Sys2Proof.Machine
end

