-- ==== Sys2Proof/Machine/Housekeeping.lean ====
section
/-! DEFINITION. `FLUSH`, `NOP` and the four reads (spec/42_housekeeping.md R130 to R138). -/

namespace Sys2Proof.Machine

/-- Acceptance of `FLUSH` in `IDLE` (R131): the count is taken once; an empty queue completes at once. -/
def acceptFlush (s : State) : State :=
  if s.rxCount = 0 then { s with fln := 0, status := .ok }
  else { s with fln := s.rxCount, status := .busy, phase := .fl }

/-- `FLUSH` (R131; held while busy, R72). -/
def execFlush (s : State) : Host.Outcome State Fault Refusal :=
  whenIdle [plainWord 0x3] s acceptFlush

/-- Step `FL` (R132). With an empty queue, which R28 (f) excludes, `pop()` is not enabled (R8; log 22). -/
def stepFl (s : State) : Host.Outcome State Fault Refusal :=
  match s.rxq with
  | [] => .next s
  | _ :: rest =>
    let t := { s.setRxq rest with fln := s.fln - 1 }
    if t.fln = 0 then .next (t.complete .ok) else .next t

/-- `NOP` (R133): accepted, and nothing changes (held while busy, R72). -/
def execNop (s : State) : Host.Outcome State Fault Refusal :=
  whenIdle [plainWord 0x0] s id

/-- `RDSEQ` (R134): `zext_16(SEQ)`. -/
def execRdseq (s : State) : Host.Outcome State Fault Refusal :=
  .next (s.answer (some (s.seq.setWidth 16)))

/-- `RDSTAT` (R135). -/
def execRdstat (s : State) : Host.Outcome State Fault Refusal :=
  .next (s.answer (some s.statWord))

/-- `RDLEN` (R136). -/
def execRdlen (s : State) : Host.Outcome State Fault Refusal :=
  .next (s.answer (some s.respLen))

/-- `RDBODY i` (R137): `zext_16(BODY[i])` below `RESP_LEN`; at or past it the read is refused and answers no value
(V4; log 10). -/
def execRdbody (i : Half) (s : State) : Host.Outcome State Fault Refusal :=
  .next (s.answer (if i < s.respLen then some ((s.bodyByte i.toNat).setWidth 16) else none))

end Sys2Proof.Machine
end

