-- ==== Sys2Proof/Machine/Pseudo.lean ====
section
/-! DEFINITION. The pseudo-operations (spec/30_encoding.md R76): fixed sequences of operations that add no behaviour.
The first operation is accepted in this step and the others stay at the command port, offered next (log 18). -/

namespace Sys2Proof.Machine

/-- Acceptance of `XACT` in `IDLE` (R76): that of its `SEND`, with its `AWAIT` offered next. -/
def acceptXact (cpLen dataLen : Half) (payload : List Byte) (maxlen : Half) (timeout : Nat) (s : State) : State :=
  acceptSend cpLen dataLen payload (s.hold [awaitWord maxlen timeout])

/-- `XACT [cp],[data], maxlen, timeout`: `SEND [cp],[data]` then `AWAIT maxlen, timeout` (R76). -/
def execXact (cpLen dataLen : Half) (payload : List Byte) (maxlen : Half) (timeout : Nat) (s : State) :
    Host.Outcome State Fault Refusal :=
  whenIdle [sendWord cpLen dataLen payload, awaitWord maxlen timeout] s
    (acceptXact cpLen dataLen payload maxlen timeout)

/-- Acceptance of `SYNCTRY` in `IDLE` (R76): that of its `FLUSH`, with its `SEND` and its `AWAIT` offered next. -/
def acceptSynctry (cpLen : Half) (payload : List Byte) (maxlen : Half) (timeout : Nat) (s : State) : State :=
  acceptFlush ((s.hold [awaitWord maxlen timeout]).hold [sendWord cpLen 0 payload])

/-- `SYNCTRY [cp], maxlen, timeout`: `FLUSH` then `SEND [cp]` then `AWAIT maxlen, timeout` (R76). -/
def execSynctry (cpLen : Half) (payload : List Byte) (maxlen : Half) (timeout : Nat) (s : State) :
    Host.Outcome State Fault Refusal :=
  whenIdle [plainWord 0x3, sendWord cpLen 0 payload, awaitWord maxlen timeout] s
    (acceptSynctry cpLen payload maxlen timeout)

end Sys2Proof.Machine
end

