-- ==== Sys2Proof/Machine/Reserved.lean ====
section
/-! DEFINITION. The reserved opcodes 0100 to 1111 (spec/30_encoding.md R73, spec/60_exceptions.md R156): offered in
`IDLE` each is refused with IllegalCommand and only `STATUS` changes; offered while busy each is held (R72). -/

namespace Sys2Proof.Machine

/-- The refusal with IllegalCommand (R73, R156). -/
def refuseCommand (s : State) : State := s.refuse .illegalCommand

/-- `RESERVED_4`, opcode 0100 (R73). -/
def execReserved4 (s : State) : Host.Outcome State Fault Refusal :=
  whenIdle [plainWord 0x4] s refuseCommand

/-- `RESERVED_5`, opcode 0101 (R73). -/
def execReserved5 (s : State) : Host.Outcome State Fault Refusal :=
  whenIdle [plainWord 0x5] s refuseCommand

/-- `RESERVED_6`, opcode 0110 (R73). -/
def execReserved6 (s : State) : Host.Outcome State Fault Refusal :=
  whenIdle [plainWord 0x6] s refuseCommand

/-- `RESERVED_7`, opcode 0111 (R73). -/
def execReserved7 (s : State) : Host.Outcome State Fault Refusal :=
  whenIdle [plainWord 0x7] s refuseCommand

/-- `RESERVED_8`, opcode 1000 (R73). -/
def execReserved8 (s : State) : Host.Outcome State Fault Refusal :=
  whenIdle [plainWord 0x8] s refuseCommand

/-- `RESERVED_9`, opcode 1001 (R73). -/
def execReserved9 (s : State) : Host.Outcome State Fault Refusal :=
  whenIdle [plainWord 0x9] s refuseCommand

/-- `RESERVED_A`, opcode 1010 (R73). -/
def execReservedA (s : State) : Host.Outcome State Fault Refusal :=
  whenIdle [plainWord 0xA] s refuseCommand

/-- `RESERVED_B`, opcode 1011 (R73). -/
def execReservedB (s : State) : Host.Outcome State Fault Refusal :=
  whenIdle [plainWord 0xB] s refuseCommand

/-- `RESERVED_C`, opcode 1100 (R73). -/
def execReservedC (s : State) : Host.Outcome State Fault Refusal :=
  whenIdle [plainWord 0xC] s refuseCommand

/-- `RESERVED_D`, opcode 1101 (R73). -/
def execReservedD (s : State) : Host.Outcome State Fault Refusal :=
  whenIdle [plainWord 0xD] s refuseCommand

/-- `RESERVED_E`, opcode 1110 (R73). -/
def execReservedE (s : State) : Host.Outcome State Fault Refusal :=
  whenIdle [plainWord 0xE] s refuseCommand

/-- `RESERVED_F`, opcode 1111 (R73). -/
def execReservedF (s : State) : Host.Outcome State Fault Refusal :=
  whenIdle [plainWord 0xF] s refuseCommand

end Sys2Proof.Machine
end

