-- ==== Sys2Proof/Machine/Wire.lean ====
section
/-! DEFINITION. The wire frame as an input of the block (spec/30_encoding.md R60, spec/10_state.md R24). -/

namespace Sys2Proof.Machine

/-- `FRAME_V2_HEADER`: a frame on the receive line. Its header, body and checksum bytes arrive in wire order, in any
phase (R24, R42, R49, R60); what the block makes of them is what `AWAIT` and `FLUSH` do (log 14). -/
def execFrameV2Header (sequence : Byte) (length : Half) (body : List Byte) (checksum : Byte) (s : State) :
    Host.Outcome State Fault Refusal :=
  .next (s.arriveAll (wireBytes sequence length body checksum))

end Sys2Proof.Machine
end

