-- ==== Sys2Proof/Machine/Dispatch.lean ====
section
/-! DEFINITION. One arm per operation, each a direct call of its meaning. -/

namespace Sys2Proof.Machine

/-- What one operation does when it is issued: for a command its acceptance (R9, R72). -/
def exec (op : Instr) (s : State) : Host.Outcome State Fault Refusal :=
  match op with
  | .frameV2Header sequence length body checksum => Sys2Proof.Machine.execFrameV2Header sequence length body checksum s
  | .nop => Sys2Proof.Machine.execNop s
  | .send cpLen dataLen payload => Sys2Proof.Machine.execSend cpLen dataLen payload s
  | .await maxlen timeout => Sys2Proof.Machine.execAwait maxlen timeout s
  | .flush => Sys2Proof.Machine.execFlush s
  | .reserved4 => Sys2Proof.Machine.execReserved4 s
  | .reserved5 => Sys2Proof.Machine.execReserved5 s
  | .reserved6 => Sys2Proof.Machine.execReserved6 s
  | .reserved7 => Sys2Proof.Machine.execReserved7 s
  | .reserved8 => Sys2Proof.Machine.execReserved8 s
  | .reserved9 => Sys2Proof.Machine.execReserved9 s
  | .reservedA => Sys2Proof.Machine.execReservedA s
  | .reservedB => Sys2Proof.Machine.execReservedB s
  | .reservedC => Sys2Proof.Machine.execReservedC s
  | .reservedD => Sys2Proof.Machine.execReservedD s
  | .reservedE => Sys2Proof.Machine.execReservedE s
  | .reservedF => Sys2Proof.Machine.execReservedF s
  | .rdseq => Sys2Proof.Machine.execRdseq s
  | .rdstat => Sys2Proof.Machine.execRdstat s
  | .rdlen => Sys2Proof.Machine.execRdlen s
  | .rdbody i => Sys2Proof.Machine.execRdbody i s
  | .xact cpLen dataLen payload maxlen timeout => Sys2Proof.Machine.execXact cpLen dataLen payload maxlen timeout s
  | .synctry cpLen payload maxlen timeout => Sys2Proof.Machine.execSynctry cpLen payload maxlen timeout s

end Sys2Proof.Machine
end

