-- ==== Sys2Proof/Machine/Turn.lean ====
section
/-! DEFINITION. What each kind of step does (spec/00_scope.md R9): the block's internal transitions, the turn of the
command port, reads, and the environment events `arrive`, `tick`, `rst` and the readiness of the Transport. -/

namespace Sys2Proof.Machine

/-- The internal transition of the block, one per phase (R9, R12). In `IDLE` none is enabled. -/
def internal (s : State) : Host.Outcome State Fault Refusal :=
  match s.phase with
  | .idle => .next s
  | .txHdr => stepTxHdr s
  | .txBody => stepTxBody s
  | .txCks => stepTxCks s
  | .rxWait => stepRxWait s
  | .rxHdr => stepRxHdr s
  | .rxChk => stepRxChk s
  | .rxBody => stepRxBody s
  | .rxCks => stepRxCks s
  | .fl => stepFl s

/-- The turn of the command port (R72): the offer in front is taken up; with no offer nothing happens. -/
def commandTurn (s : State) : Host.Outcome State Fault Refusal :=
  match s.cmdPort with
  | [] => .next s
  | ws :: later =>
    match decode (.command ws) with
    | .ok op => exec op { s with cmdPort := later }
    | .error r => .refused (.undecodable r)

/-- A read on the read port (R74, R138). -/
def readTurn (w : ReadWord) (s : State) : Host.Outcome State Fault Refusal :=
  exec (decodeRead w) s

/-- Bytes on the receive line: a frame is the operation `FRAME_V2_HEADER`; bytes that form no frame arrive all the
same (R24, R43, R49; log 15). -/
def wireTurn (bytes : List Byte) (s : State) : Host.Outcome State Fault Refusal :=
  match decodeWire bytes with
  | .ok op => exec op s
  | .error _ => .next (s.arriveAll bytes)

/-- The event `tick` (R18, R161): one off `TIMER` in the `RX_*` phases, never below 0. -/
def tickEvent (s : State) : State :=
  { s with timer := if s.phase.isRx then s.timer - 1 else s.timer }

/-- The event `rst` (R180): the registers with a reset value take it; every other block register and every byte of
`BODY` becomes unspecified (log 6, log 7). `RXQ`, `TXLOG` and the ports are not changed. -/
def rstEvent (s : State) : State :=
  { s.forgetBody with
    seq := s.cfg.seqReset
    phase := .idle
    status := .ok
    respLen := 0
    timer := 0
    cks := 0x00
    idx := Config.freeIdx s.fresh
    tseq := Config.freeTseq s.fresh
    txlen := Config.freeTxlen s.fresh
    pay := Config.freePay s.fresh
    hdr :=
      { start := Config.freeHdr s.fresh 0
        sequence := Config.freeHdr s.fresh 1
        lenHi := Config.freeHdr s.fresh 2
        lenLo := Config.freeHdr s.fresh 3
        token := Config.freeHdr s.fresh 4 }
    size := Config.freeSize s.fresh
    maxlen := Config.freeMaxlen s.fresh
    fln := Config.freeFln s.fresh }

/-- One turn. -/
def takeTurn (t : Turn) (s : State) : Host.Outcome State Fault Refusal :=
  match t with
  | .block => internal s
  | .command => commandTurn s
  | .read w => readTurn w s
  | .wire bytes => wireTurn bytes s
  | .arrive b => .next (s.arriveAll [b])
  | .tick => .next (tickEvent s)
  | .rst => .next (rstEvent s)
  | .txReady r => .next { s with txReady := r }

/-- Whose turn it is when the agenda names nobody: the command port's in `IDLE`, the block's otherwise (log 3). -/
def defaultTurn (s : State) : Turn :=
  if s.phase = .idle then .command else .block

/-- Puts an issue where the next step takes it up: a command in front of the command port, a read or a byte string on
the line as the next turn (log 4). -/
def State.issueNext (s : State) (x : Issue) : State :=
  match x with
  | .command ws => { s with cmdPort := ws :: s.cmdPort, agenda := .command :: s.agenda }
  | .read w => { s with agenda := .read w :: s.agenda }
  | .wire bytes => { s with agenda := .wire bytes :: s.agenda }

end Sys2Proof.Machine
end

