-- ==== Sys2Proof/Machine/Step.lean ====
section
/-! DEFINITION. One step of the machine (spec/00_scope.md R9), and how an operation is placed so that the next step
runs it. -/

namespace Sys2Proof.Machine

/-- One step: the turn at the head of the agenda, or the default turn when the agenda is empty (log 3). -/
def step (s : State) : Host.Outcome State Fault Refusal :=
  match s.agenda with
  | [] => takeTurn (defaultTurn s) s
  | t :: later => takeTurn t { s with agenda := later }

/-- The state with the operation of a table word issued next (log 4, log 21). -/
def State.withFetchWord (s : State) (nbits w : Nat) : State :=
  s.issueNext (issueOfTableWord nbits w)

end Sys2Proof.Machine
end

