-- ==== Sys2Proof/Machine/Ports.lean ====
section
/-! DEFINITION. The output ports of the table of spec/20_memory.md R41, and the validity of its inputs, as
functions of the state. They hold nothing. -/

namespace Sys2Proof.Machine

/-- `cmd_valid`: the host offers a command (R41, R72). -/
def State.cmdValid (s : State) : Bool := !s.cmdPort.isEmpty

/-- `cmd_ready`: 1 exactly when `BUSY = 0` (R41, R72). -/
def State.cmdReady (s : State) : Bool := !s.busy

/-- `tx_valid`: the block offers a byte to the Transport (R41, R83 to R85). -/
def State.txValid (s : State) : Bool := s.phase.isTx

/-- `tx_data`: the byte offered; none where no byte is offered (R41, R83 to R85). -/
def State.txData (s : State) : Option Byte :=
  match s.phase with
  | .txHdr => s.txHeaderByte
  | .txBody => s.payByte
  | .txCks => some s.cks
  | .idle | .rxWait | .rxHdr | .rxChk | .rxBody | .rxCks | .fl => none

/-- `pl_ready`: the framer pulls a body byte in this step: a `TX_BODY` step is enabled (R41, R84). -/
def State.plReady (s : State) : Bool := decide (s.phase = .txBody) && s.txReady

/-- `pl_data`: the body byte the host presents. R52 has it present the announced bytes unchanged until the `SEND`
completes, so in `TX_BODY` it is `PAY[IDX]`, as captured at acceptance (log 13). -/
def State.plData (s : State) : Option Byte := if s.phase = .txBody then s.payByte else none

/-- `pl_valid`: the host presents a body byte (R41, R52; log 13). -/
def State.plValid (s : State) : Bool := s.plData.isSome

/-- `rx_data`: the head of `RXQ` (R41). -/
def State.rxData (s : State) : Option Byte := s.rxq.head?

/-- `rx_pop`: the block's transition removes the head of `RXQ` (R41, R103, R108, R109, R132). -/
def State.rxPop (s : State) : Bool :=
  match s.phase with
  | .rxHdr | .rxBody | .rxCks | .fl => !s.rxq.isEmpty
  | .idle | .txHdr | .txBody | .txCks | .rxWait | .rxChk => false

/-- `rd_ok`: the last read was answered (R41, R74; log 9). -/
def State.rdOk (s : State) : Bool := s.rdOut.isSome

end Sys2Proof.Machine
end

