-- ==== Sys2Proof/Safety.lean ====
section
/-! DEFINITION. What counts as a safe run and the terms claims are stated in: several steps, whose turn it is, the
invariants of spec/10_state.md R28, the outcome of an `AWAIT` as a function of the queue (spec/41_deframer.md R113), and
when two states agree on everything a rule can read (R29). -/

namespace Sys2Proof

/-! ### Kinds of turns -/

/-- The turns that can fall during an operation without a reset or a change of the Transport's readiness: the block's
own, ticks, arrivals and reads. -/
def Turn.calm : Turn → Bool
  | .block | .tick | .arrive _ | .wire _ | .read _ => true
  | .command | .rst | .txReady _ => false

/-- The turns of a quiet line (R113): no arrivals, and ticks keep coming. -/
def Turn.quiet : Turn → Bool
  | .block | .tick => true
  | .arrive _ | .wire _ | .read _ | .command | .rst | .txReady _ => false

/-- The host makes a read. -/
def Turn.isRead : Turn → Bool
  | .read _ => true
  | .block | .command | .wire _ | .arrive _ | .tick | .rst | .txReady _ => false

/-- The bytes that arrive during a list of turns, in order (R75). -/
def arrivals : List Turn → List Byte
  | [] => []
  | .arrive b :: ts => b :: arrivals ts
  | .wire bytes :: ts => bytes ++ arrivals ts
  | .block :: ts | .tick :: ts | .read _ :: ts | .command :: ts | .rst :: ts | .txReady _ :: ts => arrivals ts

end Sys2Proof

namespace Sys2Proof.Machine

/-! ### Runs -/

/-- `k` steps, ending at the first stop. -/
def steps : Nat → State → Host.Outcome State Fault Refusal
  | 0, s => .next s
  | k + 1, s =>
    match step s with
    | .next t => steps k t
    | .fault r => .fault r
    | .refused r => .refused r

/-- Whose turn the next step is. -/
def State.turn (s : State) : Turn := s.agenda.headD (defaultTurn s)

/-- The end of a run (R195): no operation in progress, no command offered, no read to come. Bytes may still arrive and
every other event may still fall. -/
def State.ended (s : State) : Bool :=
  decide (s.phase = .idle ∧ s.cmdPort = [] ∧ ∀ e ∈ s.agenda, e.isRead = false)

/-! ### The invariants of R28 -/

/-- The byte at index `i` of `BODY` has been written since the buffer last became unspecified. -/
def State.bodyKnown (s : State) (i : Nat) : Bool := s.body.any fun c => c.1 == i

/-- The transmit queue bound of R24: `RXQ` holds at most `RXQ_CAP` bytes. -/
def withinCap (cap : Option Nat) (n : Nat) : Prop := ∀ m, cap = some m → n ≤ m

/-- What holds in every reachable state: R28 (a) to (f), with what the rules around them say of `BODY`, `TIMER`,
`RESP_LEN` and `RXQ`. -/
structure Inv (s : State) : Prop where
  /-- R28 (a). -/
  busyStatus : s.status = .busy ↔ s.phase ≠ .idle
  /-- R28 (b). -/
  respLenInBuffer : s.respLen.toNat ≤ s.cfg.bufCap.val
  /-- R28 (c). -/
  headerBuffered : s.phase = .rxHdr → s.idx.toNat < 5 ∧ 6 ≤ s.rxq.length + s.idx.toNat
  /-- R28 (d), and the bytes before `IDX` are written. -/
  bodyIndex : s.phase = .rxBody →
    s.idx.toNat < s.size.toNat ∧ s.size.toNat ≤ s.maxlen.toNat ∧ ∀ i, i < s.idx.toNat → s.bodyKnown i = true
  /-- In `RX_CKS` all of the declared body is written. -/
  bodyComplete : s.phase = .rxCks →
    s.size.toNat ≤ s.maxlen.toNat ∧ ∀ i, i < s.size.toNat → s.bodyKnown i = true
  /-- `MAXLEN <= BUF_CAP` during an `AWAIT` (R17). -/
  maxlenInBuffer : s.phase.isRx = true → s.maxlen.toNat ≤ s.cfg.bufCap.val
  /-- `RESP_LEN = 0` from the acceptance of an `AWAIT` to its end (R22, R136). -/
  nothingReadable : s.phase.isRx = true → s.respLen = 0
  /-- `TXLEN = |PAY|` during a `SEND` (R15, R28 (e)). -/
  payLength : s.phase.isTx = true → s.pay.length = s.txlen.toNat
  /-- `IDX` counts header bytes 0 to 4 in `TX_HDR` (R13). -/
  headerIndex : s.phase = .txHdr → s.idx.toNat < 5
  /-- R28 (e). -/
  payIndex : s.phase = .txBody → s.idx.toNat < s.txlen.toNat
  /-- R28 (f). -/
  flushCount : s.phase = .fl → 1 ≤ s.fln ∧ s.fln ≤ s.rxq.length
  /-- Every readable byte is written (R23, R110). -/
  readableKnown : ∀ i, i < s.respLen.toNat → s.bodyKnown i = true
  /-- `BODY` is in canonical form. -/
  bodyCanonical : Memory.wf s.body = true
  /-- `BODY` has no byte at or past `BUF_CAP` (R23, R46). -/
  bodyInBuffer : ∀ c ∈ s.body, c.1 < s.cfg.bufCap.val
  /-- `TIMER` is a `TIMER_W`-bit value (R18). -/
  timerWidth : s.timer < 2 ^ s.cfg.timerW
  /-- `RXQ` keeps within `RXQ_CAP` (R24). -/
  queueCapacity : withinCap s.cfg.rxqCap s.rxq.length

/-- The part of the current `SEND`'s frame that has been emitted (R28 (g), R83 to R85). -/
def State.emitted (s : State) : List Byte :=
  match s.phase with
  | .txHdr => (encodeV2 s.tseq s.pay []).take s.idx.toNat
  | .txBody => (encodeV2 s.tseq s.pay []).take (5 + s.idx.toNat)
  | .txCks => (encodeV2 s.tseq s.pay []).take (5 + s.txlen.toNat)
  | .idle | .rxWait | .rxHdr | .rxChk | .rxBody | .rxCks | .fl => []

/-- R28 (g): behind `base`, `TXLOG` is a concatenation of well-formed frames and the emitted part of the current one,
and during a `SEND` the register `CKS` is the exclusive-or of that part (R14). -/
structure TxInv (base : List Byte) (s : State) : Prop where
  frames : ∃ fs : List (List Byte), (∀ f ∈ fs, frameWellFormed f = true) ∧ s.txlog = base ++ fs.flatten ++ s.emitted
  checksum : s.phase.isTx = true → s.cks = xorAll s.emitted

/-- The bytes of the frame in progress that an `AWAIT` has consumed so far (R103, R108). -/
def State.consumed (s : State) : List Byte :=
  match s.phase with
  | .rxHdr => s.hdr.bytes.take s.idx.toNat
  | .rxChk => s.hdr.bytes
  | .rxBody => s.hdr.bytes ++ (List.range s.idx.toNat).map s.bodyByte
  | .rxCks => s.hdr.bytes ++ (List.range s.size.toNat).map s.bodyByte
  | .idle | .txHdr | .txBody | .txCks | .rxWait | .fl => []

/-- On receive, `CKS` is the exclusive-or of the bytes consumed (R14, R109), and behind a header there is at least one
more byte, which is the checksum of an empty body (R104, R109). -/
structure RxInv (s : State) : Prop where
  checksum : s.phase.isRx = true → s.phase ≠ .rxWait → s.cks = xorAll s.consumed
  behindHeader : s.phase = .rxChk → s.rxq ≠ []
  emptyBody : s.phase = .rxCks → s.size = 0 → s.rxq ≠ []

/-! ### The outcome of an `AWAIT` (R113) -/

/-- `Await(c, maxlen, q)` of R113: the outcome code, the body handed over (empty unless `OK`), and what stays in
`RXQ`. -/
def awaitResult (c : Byte) (maxlen : Half) (q : List Byte) : Code × List Byte × List Byte :=
  let h := q.take 5
  let r := q.drop 5
  let len := (joinBytes (q.getD 2 0) (q.getD 3 0)).toNat
  if q.length < 6 then (.timeout, [], q)
  else if q.getD 0 0 ≠ startByte ∨ q.getD 4 0 ≠ tokenByte then (.malformedHeader, [], r)
  else if q.getD 1 0 + 1 ≠ c then (.sequenceMismatch, [], r)
  else if maxlen.toNat < len then (.responseTooLarge, [], r)
  else if r.length < len + 1 then (.timeout, [], [])
  else if xorAll (h ++ r.take len) ≠ r.getD len 0 then (.checksumMismatch, [], r.drop (len + 1))
  else (.ok, r.take len, r.drop (len + 1))

/-- The state shows an ended `AWAIT` with this outcome: `STATUS`, `RESP_LEN`, the readable bytes, `RXQ`, `IDLE`. -/
def State.shows (t : State) (r : Code × List Byte × List Byte) : Prop :=
  t.phase = .idle ∧ t.status = r.1 ∧ t.respLen.toNat = r.2.1.length ∧
    (∀ i, i < r.2.1.length → t.bodyByte i = r.2.1.getD i 0) ∧ t.rxq = r.2.2

/-- An `AWAIT maxlen, timeout` is about to be accepted on a quiet line (R113): it is the command offered, its operands
are admissible, and the turns that follow are the block's own and at least `timeout` ticks, in any order, and at the end
as many turns of the block as its bytes can take: eight, and one for each byte buffered. -/
structure QuietAwait (s : State) (maxlen : Half) (timeout : Nat) (evs : List Turn) : Prop where
  idle : s.phase = .idle
  offered : s.cmdPort.head? = some [awaitWord maxlen timeout]
  agenda : s.agenda = .command :: (evs ++ List.replicate (s.rxq.length + 8) .block)
  bound : maxlen.toNat ≤ s.cfg.bufCap.val
  width : timeout < 2 ^ s.cfg.timerW
  quiet : ∀ e ∈ evs, e.quiet = true
  ticks : timeout ≤ evs.count .tick

/-! ### Agreement on what a rule can read (R26, R29) -/

/-- Two states agree on every register that some rule can read before writing it: all the registers with a specified
value, the inputs (what a host presents in place of missing body bytes among them, log 12), and of the others those that are meaningful in the current phase (R13 to R19, R23). -/
structure SameLive (s t : State) : Prop where
  cfg : s.cfg = t.cfg
  seq : s.seq = t.seq
  phase : s.phase = t.phase
  status : s.status = t.status
  respLen : s.respLen = t.respLen
  rxq : s.rxq = t.rxq
  txlog : s.txlog = t.txlog
  txReady : s.txReady = t.txReady
  cmdPort : s.cmdPort = t.cmdPort
  rdOut : s.rdOut = t.rdOut
  agenda : s.agenda = t.agenda
  payFresh : s.payFresh = t.payFresh
  timer : s.phase.isRx = true → s.timer = t.timer
  maxlen : s.phase.isRx = true → s.maxlen = t.maxlen
  cks : s.phase ≠ .idle → s.phase ≠ .rxWait → s.phase ≠ .fl → s.cks = t.cks
  idx : s.phase = .txHdr ∨ s.phase = .txBody ∨ s.phase = .rxHdr ∨ s.phase = .rxBody → s.idx = t.idx
  tseq : s.phase.isTx = true → s.tseq = t.tseq
  txlen : s.phase.isTx = true → s.txlen = t.txlen
  pay : s.phase.isTx = true → s.pay = t.pay
  hdrLatched : s.phase = .rxHdr → s.hdr.bytes.take s.idx.toNat = t.hdr.bytes.take s.idx.toNat
  hdr : s.phase = .rxChk → s.hdr = t.hdr
  size : s.phase = .rxBody ∨ s.phase = .rxCks → s.size = t.size
  fln : s.phase = .fl → s.fln = t.fln
  readable : ∀ i, i < s.respLen.toNat → s.bodyByte i = t.bodyByte i
  bodyReceived : s.phase = .rxBody → ∀ i, i < s.idx.toNat → s.bodyByte i = t.bodyByte i
  bodyComplete : s.phase = .rxCks → ∀ i, i < s.size.toNat → s.bodyByte i = t.bodyByte i

end Sys2Proof.Machine
end

