-- ==== Sys2Proof/Certificates/Slice0/Obligations.lean ====
section
/-! DEFINITION. The statements for the provers. Each docstring names the rule of spec/ it formalises; where a clause is
the model's own choice it says so and names the log entry. -/

open Sys2Proof Sys2Proof.Machine

/-! ### Encodings -/

/-- Every well-formed operation, at every operand value, is what the decoder reads from its own words (R60, R71, R74,
R76). That pseudo-operations are issued as one word sequence is the model's choice (log 18). -/
def Obligations.DecodeOfEncode : Prop :=
  ∀ (c : Config) (i : Instr), i.wf c = true → decode (encode i) = .ok i

/-- R71 and R73: the four legal opcodes with the operand inputs they use, the others ignored, and the twelve reserved
opcodes, for every command word. -/
def Obligations.CommandWordsDecode : Prop :=
  ∀ w : CmdWord,
    (w.op = 0b0000 → decode (.command [w]) = .ok .nop) ∧
    (w.op = 0b0001 → decode (.command [w]) = .ok (.send w.a w.b w.payload)) ∧
    (w.op = 0b0010 → decode (.command [w]) = .ok (.await w.a w.t)) ∧
    (w.op = 0b0011 → decode (.command [w]) = .ok .flush) ∧
    (0b0100 ≤ w.op → ∃ i ∈ [Instr.reserved4, .reserved5, .reserved6, .reserved7, .reserved8, .reserved9,
        .reservedA, .reservedB, .reservedC, .reservedD, .reservedE, .reservedF],
      decode (.command [w]) = .ok i ∧ encode i = .command [plainWord w.op])

/-- R74: the four read selects, `rd_addr` counting for `RDBODY` only. -/
def Obligations.ReadWordsDecode : Prop :=
  ∀ addr : Half,
    decode (.read { sel := 0b00, addr := addr }) = .ok .rdseq ∧
    decode (.read { sel := 0b01, addr := addr }) = .ok .rdstat ∧
    decode (.read { sel := 0b10, addr := addr }) = .ok .rdlen ∧
    decode (.read { sel := 0b11, addr := addr }) = .ok (.rdbody addr)

/-- R60, R63, R67, R70: the decoder reads a frame from a byte string exactly when bytes 0 and 4 are the two constants
and the string is as long as its length field says, and the frame it reads is issued as those very bytes. That any
checksum byte will do here, its judging being the deframer's, is the model's choice (log 14). -/
def Obligations.WireFramesDecode : Prop :=
  ∀ f : List Byte,
    ((∃ i, decode (.wire f) = .ok i) ↔
      6 ≤ f.length ∧ f.getD 0 0 = 0x1B ∧ f.getD 4 0 = 0x0E ∧
        f.length = 6 + ((f.getD 2 0).toNat * 256 + (f.getD 3 0).toNat)) ∧
    ∀ i, decode (.wire f) = .ok i → encode i = .wire f

/-- Words written out from R71, R74 and the header pattern of R60. That the size of a word tells its port, that a command
or a read stands with operands 0 and a header with zero body bytes and a zero checksum byte, is the model's choice
(log 21). -/
def Obligations.SampleWordsDecode : Prop :=
  decodeTableWord 8 0b0001 = some (.send 0 0 []) ∧
  decodeTableWord 8 0b0010 = some (.await 0 0) ∧
  decodeTableWord 8 0b1101 = some .reservedD ∧
  decodeTableWord 2 0b11 = some (.rdbody 0) ∧
  decodeTableWord 40 0b0001101110000000000000000000000000001110 = some (.frameV2Header 0x80 0 [] 0)

/-- The laws of R69: (a) an encoded frame is well formed, (b) it parses to its sequence byte and the concatenation of
its two parts, (c) a well-formed frame is the encoding of what it parses to. -/
def Obligations.EncodeParseInverse : Prop :=
  (∀ (s : Byte) (cp data : List Byte), cp.length + data.length ≤ 65535 →
    frameWellFormed (encodeV2 s cp data) = true ∧ parseFrame (encodeV2 s cp data) = (s, cp ++ data)) ∧
  (∀ f : List Byte, frameWellFormed f = true →
    (parseFrame f).2.length ≤ 65535 ∧ f = encodeV2 (parseFrame f).1 (parseFrame f).2 [])

/-- R66: the checksum is the exclusive-or of all bytes before it, the exclusive-or of a whole encoded frame is 0x00, and
the checksum of a frame with an empty body is `sequence ^ 0x15`. -/
def Obligations.ChecksumBalances : Prop :=
  ∀ (s : Byte) (cp data : List Byte), cp.length + data.length ≤ 65535 →
    xorAll (encodeV2 s cp data) = 0x00 ∧
    (encodeV2 s cp data).getLast? = some (xorAll (encodeV2 s cp data).dropLast) ∧
    encodeV2 s [] [] = [0x1B, s, 0x00, 0x00, 0x0E, s ^^^ 0x15]

/-- R65: the frame does not record where `cp` ends. -/
def Obligations.SplitNotRecorded : Prop :=
  ∀ (s : Byte) (cp data cp' data' : List Byte), cp.length + data.length ≤ 65535 →
    cp ++ data = cp' ++ data' → encodeV2 s cp data = encodeV2 s cp' data'

/-! ### `SEND` -/

/-- R82: the acceptance of `SEND` in `IDLE`, for every pair of byte strings: refused with IllegalOperand above 65535,
else latched, with nothing else changed. -/
def Obligations.SendAccepted : Prop :=
  ∀ (s : State) (cpLen dataLen : Half) (payload : List Byte), s.phase = .idle →
    (65535 < cpLen.toNat + dataLen.toNat →
      exec (.send cpLen dataLen payload) s = .next { s with status := .illegalOperand }) ∧
    (cpLen.toNat + dataLen.toNat ≤ 65535 → payload.length = cpLen.toNat + dataLen.toNat →
      exec (.send cpLen dataLen payload) s = .next { s with
        txlen := BitVec.ofNat 16 payload.length, pay := payload, tseq := s.seq, seq := s.seq + 1,
        cks := 0x00, idx := 0, status := .busy, phase := .txHdr })

/-- The model's choice (log 12): a `SEND` of admissible size for which the host brings fewer bytes than it announces,
against R52, is accepted all the same, and each missing byte is a free value; bytes beyond the announced ones are not
pulled. -/
def Obligations.SendPayloadMismatch : Prop :=
  ∀ (s : State) (cpLen dataLen : Half) (payload extra : List Byte), s.phase = .idle →
    cpLen.toNat + dataLen.toNat ≤ 65535 →
    (payload.length < cpLen.toNat + dataLen.toNat → ∃ missing : List Byte,
      payload.length + missing.length = cpLen.toNat + dataLen.toNat ∧
      exec (.send cpLen dataLen payload) s = .next { s with
        txlen := cpLen + dataLen, pay := payload ++ missing, payFresh := s.payFresh + 1, tseq := s.seq
        seq := s.seq + 1, cks := 0x00, idx := 0, status := .busy, phase := .txHdr }) ∧
    (payload.length = cpLen.toNat + dataLen.toNat →
      exec (.send cpLen dataLen (payload ++ extra)) s = exec (.send cpLen dataLen payload) s)

/-- R83: step `TX_HDR`. -/
def Obligations.HeaderStepEmits : Prop :=
  ∀ s : State, s.phase = .txHdr →
    (s.txReady = false → internal s = .next s) ∧
    (s.txReady = true → ∀ b : Byte,
      [0x1B, s.tseq, s.txlen.extractLsb' 8 8, s.txlen.extractLsb' 0 8, 0x0E][s.idx.toNat]? = some b →
      internal s = .next (
        if s.idx = 4 then
          { s with
            txlog := s.txlog ++ [b], cks := s.cks ^^^ b, idx := 0
            phase := if s.txlen = 0 then .txCks else .txBody }
        else { s with txlog := s.txlog ++ [b], cks := s.cks ^^^ b, idx := s.idx + 1 }))

/-- R84: step `TX_BODY`. -/
def Obligations.BodyStepEmits : Prop :=
  ∀ s : State, s.phase = .txBody →
    (s.txReady = false → internal s = .next s) ∧
    (s.txReady = true → ∀ b : Byte, s.pay[s.idx.toNat]? = some b →
      internal s = .next { s with
        txlog := s.txlog ++ [b], cks := s.cks ^^^ b, idx := s.idx + 1
        phase := if s.idx + 1 = s.txlen then .txCks else .txBody })

/-- R85: step `TX_CKS`; at this point `CKS` is the exclusive-or of the `5 + TXLEN` bytes already emitted, the checksum
of the frame. -/
def Obligations.ChecksumStepEmits : Prop :=
  ∀ s : State, s.phase = .txCks →
    (s.txReady = false → internal s = .next s) ∧
    (s.txReady = true →
      internal s = .next { s with txlog := s.txlog ++ [s.cks], status := .ok, phase := .idle }) ∧
    ∀ base : List Byte, Inv s → TxInv base s →
      s.emitted.length = 5 + s.txlen.toNat ∧ s.cks = xorAll s.emitted ∧ s.emitted ++ [s.cks] = encodeV2 s.tseq s.pay []

/-- R86: an accepted `SEND` as a whole, whatever arrives, ticks or is read while it runs: after the acceptance and
`6 + |cp| + |data|` turns of the block, `TXLOG` has grown by exactly the frame. -/
def Obligations.SendEmitsItsFrame : Prop :=
  ∀ (s : State) (cp data : List Byte) (later : List (List CmdWord)) (evs : List Turn),
    s.phase = .idle → s.txReady = true → cp.length + data.length ≤ 65535 →
    s.cmdPort = [sendWord (BitVec.ofNat 16 cp.length) (BitVec.ofNat 16 data.length) (cp ++ data)] :: later →
    s.agenda = .command :: evs → (∀ e ∈ evs, e.calm = true) →
    evs.count .block = 6 + cp.length + data.length →
    ∃ t, steps (1 + evs.length) s = .next t ∧
      t.txlog = s.txlog ++ encodeV2 s.seq cp data ∧ t.seq = s.seq + 1 ∧ t.status = .ok ∧ t.phase = .idle ∧
      t.respLen = s.respLen ∧ (∀ i, t.bodyByte i = s.bodyByte i) ∧
      (∃ more, t.rxq = s.rxq ++ more ∧ more.Sublist (arrivals evs)) ∧
      (s.cfg.rxqCap = none → t.rxq = s.rxq ++ arrivals evs) ∧ t.timer = s.timer ∧ t.cmdPort = later

/-- R89, R25, R48: a step either leaves `TXLOG` alone or, in a `TX_*` phase, appends the one byte the framer offers. -/
def Obligations.TransmitOnlyWhileSending : Prop :=
  ∀ s t : State, step s = .next t →
    t.txlog = s.txlog ∨ (s.phase.isTx = true ∧ s.turn = .block ∧ ∃ b, s.txData = some b ∧ t.txlog = s.txlog ++ [b])

/-- R28 (g): in a run without `rst`, `TXLOG` stays a concatenation of complete frames followed, only while a `SEND` is
in progress, by a proper part of that `SEND`'s frame; `CKS` is the exclusive-or of that part (R14). -/
def Obligations.TransmitLogIsFrames : Prop :=
  ∀ (base : List Byte) (s t : State), Inv s → TxInv base s → s.turn ≠ .rst → step s = .next t → TxInv base t

/-! ### `AWAIT` -/

/-- R101: the acceptance of `AWAIT` in `IDLE`: refused with IllegalOperand above `BUF_CAP`, else started, with `BODY`
unspecified and nothing else changed. -/
def Obligations.AwaitAccepted : Prop :=
  ∀ (s : State) (maxlen : Half) (timeout : Nat), s.phase = .idle → timeout < 2 ^ s.cfg.timerW →
    (s.cfg.bufCap.val < maxlen.toNat →
      exec (.await maxlen timeout) s = .next { s with status := .illegalOperand }) ∧
    (maxlen.toNat ≤ s.cfg.bufCap.val →
      exec (.await maxlen timeout) s = .next { s.forgetBody with
        maxlen := maxlen, timer := timeout, respLen := 0, status := .busy, phase := .rxWait })

/-- R165: failure entry changes `RESP_LEN`, `STATUS` and `PHASE` and makes `BODY` unspecified; a step of an `AWAIT` that
fails does that and otherwise has at most consumed one byte (and set `SIZE`, R107); a refusal changes `STATUS` only. -/
def Obligations.FailureEntry : Prop :=
  (∀ (s : State) (c : Code),
    s.fail c = { s with
      respLen := 0, status := c, phase := .idle, body := (s.fail c).body, fresh := (s.fail c).fresh } ∧
    (∀ i, (s.fail c).bodyKnown i = false) ∧ s.refuse c = { s with status := c }) ∧
  ∀ s t : State, s.phase.isRx = true → internal s = .next t → t.phase = .idle → t.status ≠ .ok →
    t = { s with
      rxq := t.rxq, size := t.size, respLen := 0, status := t.status, phase := .idle, body := t.body, fresh := t.fresh } ∧
    (∀ i, t.bodyKnown i = false) ∧ (t.rxq = s.rxq ∨ ∃ b, s.rxq = b :: t.rxq) ∧
    t.status ∈ [.timeout, .malformedHeader, .sequenceMismatch, .responseTooLarge, .checksumMismatch]

/-- R102: step `RX_WAIT`: six buffered bytes win over the timer; an expired timer fails; else nothing is enabled. -/
def Obligations.WaitStep : Prop :=
  ∀ s : State, s.phase = .rxWait →
    (6 ≤ s.rxq.length → internal s = .next { s with cks := 0x00, idx := 0, phase := .rxHdr }) ∧
    (s.rxq.length < 6 → s.timer = 0 → internal s = .next (s.fail .timeout)) ∧
    (s.rxq.length < 6 → 0 < s.timer → internal s = .next s)

/-- R103: step `RX_HDR`, for each of the five header registers; the timer is not consulted. -/
def Obligations.HeaderStepLatches : Prop :=
  ∀ (s : State) (b : Byte) (rest : List Byte), s.phase = .rxHdr → s.rxq = b :: rest → s.idx.toNat < 5 →
    ∃ h : Header,
      internal s = .next { s with
        rxq := rest, hdr := h, cks := s.cks ^^^ b, idx := s.idx + 1
        phase := if s.idx + 1 = 5 then .rxChk else .rxHdr } ∧
      h.bytes = s.hdr.bytes.set s.idx.toNat b

/-- R104 with R105, R106 and R107: step `RX_CHK`, structure, then sequence, then size, stopping at the first that
fails; nothing is consumed. -/
def Obligations.HeaderChecksInOrder : Prop :=
  ∀ s : State, s.phase = .rxChk →
    let declared : Nat := s.hdr.lenHi.toNat * 256 + s.hdr.lenLo.toNat
    let sized : State := { s with size := BitVec.ofNat 16 declared }
    internal s = .next (
      if s.hdr.start ≠ 0x1B ∨ s.hdr.token ≠ 0x0E then s.fail .malformedHeader
      else if s.hdr.sequence + 1 ≠ s.seq then s.fail .sequenceMismatch
      else if s.maxlen.toNat < declared then sized.fail .responseTooLarge
      else { sized with idx := 0, phase := if declared = 0 then .rxCks else .rxBody })

/-- R108: step `RX_BODY`: a byte that is there is taken and stored at `BODY[IDX]`, every other byte of `BODY` as
before; with an empty queue an expired timer fails, else nothing is enabled. -/
def Obligations.BodyStepStores : Prop :=
  ∀ s : State, s.phase = .rxBody →
    (∀ (b : Byte) (rest : List Byte), s.rxq = b :: rest → s.idx.toNat < s.cfg.bufCap.val →
      ∃ t : State, internal s = .next t ∧
        t = { s with
          rxq := rest, body := t.body, cks := s.cks ^^^ b, idx := s.idx + 1
          phase := if s.idx + 1 = s.size then .rxCks else .rxBody } ∧
        t.bodyByte s.idx.toNat = b ∧ ∀ j, j ≠ s.idx.toNat → t.bodyByte j = s.bodyByte j) ∧
    (s.rxq = [] → s.timer = 0 → internal s = .next (s.fail .timeout)) ∧
    (s.rxq = [] → 0 < s.timer → internal s = .next s)

/-- R109, R110: step `RX_CKS`: the received checksum byte is compared with the recomputed one, which is the exclusive-or
of the five header bytes and the body; with an empty queue an expired timer fails, which can be only with a body. -/
def Obligations.ChecksumStepJudges : Prop :=
  ∀ s : State, s.phase = .rxCks →
    (∀ rest : List Byte, s.rxq = s.cks :: rest →
      internal s = .next { s with rxq := rest, respLen := s.size, status := .ok, phase := .idle }) ∧
    (∀ (b : Byte) (rest : List Byte), s.rxq = b :: rest → b ≠ s.cks →
      internal s = .next ({ s with rxq := rest }.fail .checksumMismatch)) ∧
    (s.rxq = [] → s.timer = 0 → internal s = .next (s.fail .timeout)) ∧
    (s.rxq = [] → 0 < s.timer → internal s = .next s) ∧
    (RxInv s → s.cks = xorAll (s.hdr.bytes ++ (List.range s.size.toNat).map s.bodyByte) ∧ (s.rxq = [] → s.size ≠ 0))

/-- R113: an `AWAIT` on a quiet line ends as the function `Await` of the queue says, with `SEQ` and `TXLOG` unchanged,
in whatever order the ticks fall. -/
def Obligations.AwaitOnQuietLine : Prop :=
  ∀ (s : State) (maxlen : Half) (timeout : Nat) (evs : List Turn), QuietAwait s maxlen timeout evs →
    ∃ t, steps s.agenda.length s = .next t ∧ t.shows (awaitResult s.seq maxlen s.rxq) ∧
      t.seq = s.seq ∧ t.txlog = s.txlog ∧ t.cmdPort = s.cmdPort.tail

/-- R114 (a): if an `AWAIT` ends `OK`, whatever arrived, ticked and was read meanwhile, then the bytes it consumed form
a well-formed frame that answers the most recent request, its body is within `maxlen` and is what the host reads. -/
def Obligations.AwaitAcceptsOnlyFrames : Prop :=
  ∀ (s t₀ t : State) (maxlen : Half) (timeout : Nat) (evs : List Turn),
    s.phase = .idle → maxlen.toNat ≤ s.cfg.bufCap.val →
    exec (.await maxlen timeout) s = .next t₀ → (∀ e ∈ evs, e.calm = true) →
    steps evs.length { t₀ with agenda := evs } = .next t → t.phase = .idle → t.status = .ok →
    ∃ f : List Byte, (f ++ t.rxq).Sublist (s.rxq ++ arrivals evs) ∧
      (s.cfg.rxqCap = none → s.rxq ++ arrivals evs = f ++ t.rxq) ∧ frameWellFormed f = true ∧
      (parseFrame f).1 + 1 = s.seq ∧ t.respLen.toNat = (parseFrame f).2.length ∧
      t.respLen.toNat ≤ maxlen.toNat ∧
      ∀ i, i < t.respLen.toNat → t.bodyByte i = (parseFrame f).2.getD i 0

/-- R113, with arrivals during the operation: an `AWAIT` that has ended otherwise than by `Timeout` has the outcome the
function `Await` gives for all the bytes together, buffered before and arrived meanwhile, in whatever order bytes, ticks
and steps fell. -/
def Obligations.AwaitIsAFunctionOfTheBytes : Prop :=
  ∀ (s t₀ t : State) (maxlen : Half) (timeout : Nat) (evs : List Turn),
    s.phase = .idle → s.cfg.rxqCap = none → maxlen.toNat ≤ s.cfg.bufCap.val →
    exec (.await maxlen timeout) s = .next t₀ → (∀ e ∈ evs, e.calm = true) →
    steps evs.length { t₀ with agenda := evs } = .next t → t.phase = .idle → t.status ≠ .timeout →
    t.shows (awaitResult s.seq maxlen (s.rxq ++ arrivals evs)) ∧ t.seq = s.seq ∧ t.txlog = s.txlog

/-- R114 (b): a well-formed frame with the right sequence byte and a body within `maxlen`, whose bytes are all buffered
at acceptance (for every `timeout`, 0 included, R116 (c)) or have arrived, during the turns `before`, ere the timer
expires, is accepted, whatever falls in the turns `after`, the end of the timer among it (R162); what is behind it stays
queued. -/
def Obligations.AwaitAcceptsEveryFrame : Prop :=
  ∀ (s : State) (q : Byte) (body rest : List Byte) (maxlen : Half) (timeout : Nat) (later : List (List CmdWord))
    (before after : List Turn),
    s.phase = .idle → s.cfg.rxqCap = none → s.cmdPort = [awaitWord maxlen timeout] :: later →
    maxlen.toNat ≤ s.cfg.bufCap.val → timeout < 2 ^ s.cfg.timerW →
    (∀ e ∈ before, e.calm = true) → (∀ e ∈ after, e.calm = true) →
    s.agenda = .command :: (before ++ after ++ List.replicate (8 + body.length) .block) →
    q + 1 = s.seq → body.length ≤ maxlen.toNat → s.rxq ++ arrivals before = encodeV2 q body [] ++ rest →
    6 + body.length ≤ s.rxq.length ∨ before.count .tick < timeout →
    ∃ t, steps s.agenda.length s = .next t ∧ t.shows (.ok, body, rest ++ arrivals after)

/-- R114 (c), the loop-back law, through `XACT`: the frame a `SEND` emits, fed back, is accepted by the `AWAIT` behind
it with body `cp ∥ data`. That the frame arrives as one turn (log 14) and that `XACT` is one offer whose `AWAIT` waits at
the command port (log 18) is the model's choice. -/
def Obligations.LoopbackAccepted : Prop :=
  ∀ (s : State) (cp data : List Byte) (maxlen : Half) (timeout : Nat),
    s.phase = .idle → s.txReady = true → withinCap s.cfg.rxqCap (6 + cp.length + data.length) → s.rxq = [] →
    cp.length + data.length ≤ maxlen.toNat → maxlen.toNat ≤ s.cfg.bufCap.val →
    s.cmdPort = [[sendWord (BitVec.ofNat 16 cp.length) (BitVec.ofNat 16 data.length) (cp ++ data),
      awaitWord maxlen timeout]] →
    s.agenda = .command :: (List.replicate (6 + cp.length + data.length) .block
      ++ [.wire (encodeV2 s.seq cp data), .command] ++ List.replicate (8 + cp.length + data.length) .block) →
    ∃ t, steps s.agenda.length s = .next t ∧ t.shows (.ok, cp ++ data, []) ∧
      t.txlog = s.txlog ++ encodeV2 s.seq cp data

/-- R115 (for any change of one byte, a flipped bit among them): what a damaged byte does, by its position `j`, and that
the body of the undamaged frame is never returned. Where the length field has become smaller, the body byte at the new
length is taken as the checksum, and the outcome is `OK` with the truncated body exactly when it is the exclusive-or of the
damaged header and that body. -/
def Obligations.OneDamagedByte : Prop :=
  ∀ (s : State) (q b : Byte) (body : List Byte) (j : Nat) (maxlen : Half) (timeout : Nat) (evs : List Turn),
    QuietAwait s maxlen timeout evs → q + 1 = s.seq → body.length ≤ maxlen.toNat →
    j < 6 + body.length → b ≠ (encodeV2 q body []).getD j 0 → s.rxq = (encodeV2 q body []).set j b →
    ∃ t, steps s.agenda.length s = .next t ∧ t.phase = .idle ∧
      (j = 0 ∨ j = 4 → t.status = .malformedHeader ∧ t.rxq = s.rxq.drop 5) ∧
      (j = 1 → t.status = .sequenceMismatch ∧ t.rxq = s.rxq.drop 5) ∧
      (j = 2 ∨ j = 3 →
        let declared := (s.rxq.getD 2 0).toNat * 256 + (s.rxq.getD 3 0).toNat
        (maxlen.toNat < declared → t.status = .responseTooLarge ∧ t.rxq = s.rxq.drop 5) ∧
        (declared ≤ maxlen.toNat → body.length < declared → t.status = .timeout ∧ t.rxq = []) ∧
        (declared < body.length →
          (body.getD declared 0 = xorAll (s.rxq.take 5 ++ body.take declared) →
            t.shows (.ok, body.take declared, s.rxq.drop (6 + declared))) ∧
          (body.getD declared 0 ≠ xorAll (s.rxq.take 5 ++ body.take declared) →
            t.shows (.checksumMismatch, [], s.rxq.drop (6 + declared))))) ∧
      (5 ≤ j → t.status = .checksumMismatch ∧ t.rxq = []) ∧
      ¬ t.shows (.ok, body, t.rxq)

/-- R111, R117: no turn of the block during an `AWAIT` changes `SEQ`, emits, or touches the command port or the read
port; bytes leave `RXQ` from its head only; and the operation ends with `RESP_LEN = 0` unless it ends `OK`. -/
def Obligations.AwaitLeavesAlone : Prop :=
  ∀ s t : State, Inv s → s.phase.isRx = true → internal s = .next t →
    t.seq = s.seq ∧ t.txlog = s.txlog ∧ t.cmdPort = s.cmdPort ∧ t.rdOut = s.rdOut ∧ t.timer = s.timer ∧
      t.maxlen = s.maxlen ∧ (t.rxq = s.rxq ∨ ∃ b, s.rxq = b :: t.rxq) ∧ (t.respLen = 0 ∨ t.status = .ok)

/-- R138, R137: while an `AWAIT` is in progress every `RDBODY` is refused, whatever has been received so far. -/
def Obligations.NothingReadableEarly : Prop :=
  ∀ (s : State) (i : Half), Inv s → s.phase.isRx = true → exec (.rdbody i) s = .next { s with rdOut := none }

/-- R163: once the timer can run out, an `AWAIT` in progress ends: after turns with at least `TIMER` ticks and any
arrivals, as many turns of the block as there are bytes, and eight more, bring it to `IDLE`. -/
def Obligations.AwaitTerminates : Prop :=
  ∀ (s : State) (evs : List Turn), Inv s → s.phase.isRx = true → (∀ e ∈ evs, e.calm = true) →
    s.timer ≤ evs.count .tick →
    s.agenda = evs ++ List.replicate (s.rxq.length + (arrivals evs).length + 8) .block →
    ∃ t, steps s.agenda.length s = .next t ∧ t.phase = .idle

/-! ### `FLUSH`, `NOP`, reserved opcodes, reads -/

/-- R131: the acceptance of `FLUSH` in `IDLE`: the count is taken once; an empty queue completes at once. -/
def Obligations.FlushAccepted : Prop :=
  ∀ s : State, s.phase = .idle →
    (s.rxq = [] → exec .flush s = .next { s with fln := 0, status := .ok }) ∧
    (s.rxq ≠ [] → exec .flush s = .next { s with fln := s.rxq.length, status := .busy, phase := .fl })

/-- R132, one step `FL`: one byte is discarded, and the last one completes the operation. -/
def Obligations.FlushStepDiscards : Prop :=
  ∀ (s : State) (b : Byte) (rest : List Byte), s.phase = .fl → s.rxq = b :: rest → 1 ≤ s.fln →
    internal s = .next (
      if s.fln = 1 then { s with rxq := rest, fln := 0, status := .ok, phase := .idle }
      else { s with rxq := rest, fln := s.fln - 1 })

/-- R132, as a whole: whatever arrives, ticks or is read meanwhile, a `FLUSH` removes exactly the bytes that were
buffered at its acceptance, after as many turns of the block, and ends `OK`; bytes that arrive stay. -/
def Obligations.FlushRemovesTheSnapshot : Prop :=
  ∀ (s : State) (later : List (List CmdWord)) (evs : List Turn),
    s.phase = .idle → s.cmdPort = [plainWord 0b0011] :: later →
    s.agenda = .command :: evs → (∀ e ∈ evs, e.calm = true) → evs.count .block = s.rxq.length →
    ∃ t, steps (1 + evs.length) s = .next t ∧
      t.rxq.Sublist (arrivals evs) ∧ (s.cfg.rxqCap = none → t.rxq = arrivals evs) ∧
      t.status = .ok ∧ t.phase = .idle ∧ t.seq = s.seq ∧ t.respLen = s.respLen ∧
      (∀ i, t.bodyByte i = s.bodyByte i) ∧ t.timer = s.timer ∧ t.txlog = s.txlog ∧ t.cmdPort = later

/-- R133: `NOP` in `IDLE` is accepted and changes nothing. -/
def Obligations.NopChangesNothing : Prop :=
  ∀ s : State, s.phase = .idle → exec .nop s = .next s

/-- R73, R156: each of the twelve reserved opcodes, offered in `IDLE`, sets `STATUS` to IllegalCommand and changes
nothing else. -/
def Obligations.ReservedOpcodesRefused : Prop :=
  ∀ i ∈ [Instr.reserved4, .reserved5, .reserved6, .reserved7, .reserved8, .reserved9,
      .reservedA, .reservedB, .reservedC, .reservedD, .reservedE, .reservedF],
    ∀ s : State, s.phase = .idle → exec i s = .next { s with status := .illegalCommand }

/-- R134: `RDSEQ` answers `zext_16(SEQ)`, in any phase, and changes nothing but the read port. -/
def Obligations.RdseqReadsSeq : Prop :=
  ∀ s : State, ∃ v : Half, exec .rdseq s = .next { s with rdOut := some v } ∧ v.toNat = s.seq.toNat

/-- R135 with the code numbers of R21: `RDSTAT` answers a value whose bit 7 is `BUSY`, whose bits 3 to 0 are the number
of `STATUS`, whose other bits are 0, and, where the invariants hold, one of the nine values listed. -/
def Obligations.RdstatReadsStatus : Prop :=
  ∀ s : State, ∃ v : Half, exec .rdstat s = .next { s with rdOut := some v } ∧
    (v.getLsbD 7 = true ↔ s.phase ≠ .idle) ∧
    (s.status = .ok → v.extractLsb' 0 4 = 0x0) ∧
    (s.status = .timeout → v.extractLsb' 0 4 = 0x1) ∧
    (s.status = .malformedHeader → v.extractLsb' 0 4 = 0x2) ∧
    (s.status = .sequenceMismatch → v.extractLsb' 0 4 = 0x3) ∧
    (s.status = .checksumMismatch → v.extractLsb' 0 4 = 0x4) ∧
    (s.status = .responseTooLarge → v.extractLsb' 0 4 = 0x5) ∧
    (s.status = .illegalCommand → v.extractLsb' 0 4 = 0x9) ∧
    (s.status = .illegalOperand → v.extractLsb' 0 4 = 0xA) ∧
    (s.status = .busy → v.extractLsb' 0 4 = 0xF) ∧
    (∀ k, 4 ≤ k → k ≠ 7 → v.getLsbD k = false) ∧
    (Inv s → v ∈ [0x0000, 0x0001, 0x0002, 0x0003, 0x0004, 0x0005, 0x0009, 0x000A, 0x008F])

/-- R136: `RDLEN` answers `RESP_LEN`. -/
def Obligations.RdlenReadsLength : Prop :=
  ∀ s : State, exec .rdlen s = .next { s with rdOut := some s.respLen }

/-- R137: `RDBODY i` answers `zext_16(BODY[i])` below `RESP_LEN` and is refused, with no value, at or past it. -/
def Obligations.RdbodyReadsBody : Prop :=
  ∀ (s : State) (i : Half),
    (i.toNat < s.respLen.toNat → ∃ v : Half, exec (.rdbody i) s = .next { s with rdOut := some v } ∧
      v.toNat = (s.bodyByte i.toNat).toNat) ∧
    (s.respLen.toNat ≤ i.toNat → exec (.rdbody i) s = .next { s with rdOut := none })

/-- R72: a command or pseudo-operation offered while an operation is in progress is neither accepted nor refused nor
lost: its words stay in front at the command port and nothing else changes. That ignored operand inputs are re-offered
as 0 is the model's choice (log 11). -/
def Obligations.CommandHeldWhileBusy : Prop :=
  ∀ (s : State) (i : Instr) (ws : List CmdWord), s.phase ≠ .idle → encode i = .command ws →
    exec i s = .next { s with cmdPort := ws :: s.cmdPort }

/-! ### The wire, pseudo-operations, events -/

/-- R24, R60, R42, R9: what comes from outside joins `RXQ` at its tail and changes nothing else, in any phase: a frame,
header, body and checksum in wire order; one byte `arrive(b)`; any byte string in order, a frame or not. A change of
`tx_ready` changes nothing else either. That a byte string arrives as one turn is the model's choice (log 14, log 15), and
so are that a byte is not queued when `RXQ` is full (log 16) and that `tx_ready` is a field (log 17). -/
def Obligations.FrameArrives : Prop :=
  ∀ s : State,
    (∀ (sequence : Byte) (length : Half) (body : List Byte) (checksum : Byte),
      withinCap s.cfg.rxqCap (s.rxq.length + 6 + body.length) →
      exec (.frameV2Header sequence length body checksum) s = .next { s with
        rxq := s.rxq ++ [0x1B, sequence, length.extractLsb' 8 8, length.extractLsb' 0 8, 0x0E] ++ body ++ [checksum] }) ∧
    (∀ b : Byte, withinCap s.cfg.rxqCap (s.rxq.length + 1) →
      takeTurn (.arrive b) s = .next { s with rxq := s.rxq ++ [b] }) ∧
    (∀ (b : Byte) (n : Nat), s.cfg.rxqCap = some n → n ≤ s.rxq.length → takeTurn (.arrive b) s = .next s) ∧
    (∀ bytes : List Byte, withinCap s.cfg.rxqCap (s.rxq.length + bytes.length) →
      takeTurn (.wire bytes) s = .next { s with rxq := s.rxq ++ bytes }) ∧
    ∀ r : Bool, takeTurn (.txReady r) s = .next { s with txReady := r }

/-- R76: `XACT` is `SEND` then `AWAIT`: it does what `SEND` does with the `AWAIT` offered next, and completes whenever
the announced bytes are there. That the `AWAIT` waits at the command port is the model's choice (log 18). -/
def Obligations.XactIsSendThenAwait : Prop :=
  ∀ (s : State) (cpLen dataLen maxlen : Half) (payload : List Byte) (timeout : Nat), s.phase = .idle →
    exec (.xact cpLen dataLen payload maxlen timeout) s =
      exec (.send cpLen dataLen payload) { s with cmdPort := [awaitWord maxlen timeout] :: s.cmdPort } ∧
    (cpLen.toNat + dataLen.toNat ≤ 65535 → payload.length = cpLen.toNat + dataLen.toNat →
      exec (.xact cpLen dataLen payload maxlen timeout) s = .next { s with
        txlen := BitVec.ofNat 16 payload.length, pay := payload, tseq := s.seq, seq := s.seq + 1,
        cks := 0x00, idx := 0, status := .busy, phase := .txHdr
        cmdPort := [awaitWord maxlen timeout] :: s.cmdPort })

/-- R76: `SYNCTRY` is `FLUSH` then `SEND` then `AWAIT`: it does what `FLUSH` does with the other two offered next. That
they wait at the command port is the model's choice (log 18). -/
def Obligations.SynctryIsFlushSendAwait : Prop :=
  ∀ (s : State) (cpLen maxlen : Half) (payload : List Byte) (timeout : Nat), s.phase = .idle →
    let next := [sendWord cpLen 0 payload] :: [awaitWord maxlen timeout] :: s.cmdPort
    exec (.synctry cpLen payload maxlen timeout) s = exec .flush { s with cmdPort := next } ∧
    exec (.synctry cpLen payload maxlen timeout) s = .next (
      if s.rxq = [] then { s with cmdPort := next, fln := 0, status := .ok }
      else { s with cmdPort := next, fln := s.rxq.length, status := .busy, phase := .fl })

/-- R161: the event `tick` decrements `TIMER` above 0 in the `RX_*` phases and otherwise changes nothing. -/
def Obligations.TickCountsDown : Prop :=
  ∀ s : State,
    (s.phase ∈ [.rxWait, .rxHdr, .rxChk, .rxBody, .rxCks] → 0 < s.timer →
      takeTurn .tick s = .next { s with timer := s.timer - 1 }) ∧
    (s.phase ∉ [.rxWait, .rxHdr, .rxChk, .rxBody, .rxCks] ∨ s.timer = 0 → takeTurn .tick s = .next s)

/-- R180: the event `rst`, from any phase: the registers with a reset value take it, every other block register and every
byte of `BODY` becomes unspecified, and `RXQ`, `TXLOG` and the held commands are not changed. That the answer of the last
read (log 9), `tx_ready` (log 17), the agenda (log 3) and the count of short `SEND`s (log 12) stay too is the model's
choice. -/
def Obligations.RstEvent : Prop :=
  ∀ s : State, ∃ t, takeTurn .rst s = .next t ∧
    t = { s with
      seq := s.cfg.seqReset, phase := .idle, status := .ok, respLen := 0, timer := 0, cks := 0x00
      idx := t.idx, tseq := t.tseq, txlen := t.txlen, pay := t.pay, hdr := t.hdr, size := t.size, maxlen := t.maxlen
      fln := t.fln, body := t.body, fresh := t.fresh } ∧
    ∀ i, t.bodyKnown i = false

/-- R29: the reset values the spec gives, in `State.reset`, with the suggested parameters of R6 (log 1). -/
def Obligations.ResetValues : Prop :=
  State.reset.seq = State.reset.cfg.seqReset ∧ State.reset.phase = .idle ∧ State.reset.status.bits = 0x0 ∧
    State.reset.respLen = 0 ∧ State.reset.timer = 0 ∧ State.reset.cks = 0x00 ∧ State.reset.busy = false

/-! ### Rules about the whole machine -/

/-- R28 (a) to (f) and the rules around them: every step, from every state that satisfies the invariants, keeps them. -/
def Obligations.EveryStepKeepsInv : Prop :=
  ∀ s t : State, Inv s → step s = .next t → Inv t

/-- R14, R109, R104: on receive, `CKS` is the exclusive-or of the bytes consumed and a byte is there behind the header;
every step keeps that, and it holds at reset. -/
def Obligations.ReceiveChecksumAccumulates : Prop :=
  RxInv State.reset ∧ ∀ s t : State, Inv s → RxInv s → step s = .next t → RxInv t

/-- The invariants hold at reset (R28, R29), in `State.reset` with the suggested parameters (log 1) and the values the
model chose for the unspecified registers (log 5). -/
def Obligations.InvAtReset : Prop := Inv State.reset

/-- No step from a state that satisfies the invariants of R28 stops with a fault: no index leaves `HDR`, `PAY` or
`BODY`. -/
def Obligations.NoIndexFault : Prop :=
  ∀ (s : State) (r : Fault), Inv s → step s ≠ .fault r

/-- R11: `SEQ` changes only by the acceptance of a `SEND`, by one and wrapping, and by `rst`. -/
def Obligations.SeqWrittenBySendOnly : Prop :=
  ∀ s t : State, step s = .next t →
    t.seq = s.seq ∨ (s.turn = .rst ∧ t.seq = s.cfg.seqReset) ∨
      (s.turn = .command ∧ s.phase = .idle ∧ t.phase = .txHdr ∧ t.tseq = s.seq ∧ t.seq = s.seq + 1)

/-- R24: nothing but the block's `pop()` removes bytes from `RXQ`; every other step leaves it or appends to it. -/
def Obligations.OnlyPopRemovesBytes : Prop :=
  ∀ s t : State, step s = .next t →
    (∃ more, t.rxq = s.rxq ++ more) ∨
      (s.turn = .block ∧ s.phase ∈ [.rxHdr, .rxBody, .rxCks, .fl] ∧ ∃ b, s.rxq = b :: t.rxq)

/-- R22, R137, R188, D30: outside an `AWAIT`, a step that neither accepts an `AWAIT` nor is a reset keeps `RESP_LEN`
and every byte of `BODY`. -/
def Obligations.BodyStaysReadable : Prop :=
  ∀ s t : State, step s = .next t → s.phase.isRx = false → t.phase.isRx = false → s.turn ≠ .rst →
    t.respLen = s.respLen ∧ ∀ i, t.bodyByte i = s.bodyByte i

/-- R6: no step changes a parameter. That the parameters stand in State is the model's choice (log 1). -/
def Obligations.ParametersConstant : Prop :=
  ∀ s t : State, step s = .next t → t.cfg = s.cfg

/-- R29: no rule's result depends on an unspecified value: from two states that agree on everything a rule can read
before writing it, a step leads to two states that agree again. -/
def Obligations.UnspecifiedNeverMatters : Prop :=
  ∀ s s' t : State, SameLive s t → step s = .next s' → ∃ t', step t = .next t' ∧ SameLive s' t'

/-- A step runs the operation decoded from what its turn brings: a command from the front of the command port, a read,
a frame on the line; and in `IDLE` with an empty agenda the command port has the turn (log 3). Whatever turn is at the head
of the agenda, the events of R9 among them, the step is that turn, taken off the agenda. -/
def Obligations.StepRunsDecoded : Prop :=
  ∀ (s : State) (i : Instr) (ws : List CmdWord) (offers : List (List CmdWord)) (w : ReadWord) (bytes : List Byte)
    (e : Turn) (later : List Turn),
    (s.agenda = e :: later → step s = takeTurn e { s with agenda := later }) ∧
    (s.agenda = .command :: later → s.cmdPort = ws :: offers → decode (.command ws) = .ok i →
      step s = exec i { s with agenda := later, cmdPort := offers }) ∧
    (s.agenda = [] → s.phase = .idle → s.cmdPort = ws :: offers → decode (.command ws) = .ok i →
      step s = exec i { s with cmdPort := offers }) ∧
    (s.agenda = .read w :: later → decode (.read w) = .ok i → step s = exec i { s with agenda := later }) ∧
    (s.agenda = .wire bytes :: later → decode (.wire bytes) = .ok i → step s = exec i { s with agenda := later }) ∧
    (s.agenda = .block :: later → step s = internal { s with agenda := later })

/-- R41, R27, R72: the output ports say what the block's turn does: `cmd_ready` and `busy`; a byte is emitted exactly
when `tx_valid` and `tx_ready` agree, and it is `tx_data`; the head of `RXQ` is removed exactly when `rx_pop`; one body
byte is transferred at the payload port exactly in a `TX_BODY` step, and it is the byte emitted. A command offered is
accepted, and so leaves the port, exactly when `cmd_ready`; else it stays with its operands and nothing changes. That the
payload port presents the bytes captured at acceptance is R52's duty of the host as the model holds it (log 13). -/
def Obligations.PortsMatchTransitions : Prop :=
  (∀ s t : State, internal s = .next t →
    (s.cmdReady = true ↔ s.phase = .idle) ∧ s.busy = !s.cmdReady ∧
    t.txlog = s.txlog ++ (if s.txValid && s.txReady then s.txData.toList else []) ∧
    t.rxq = (if s.rxPop then s.rxq.tail else s.rxq) ∧
    (s.plReady = true → ∃ b, s.plValid = true ∧ s.plData = some b ∧ s.txData = some b ∧
      t.txlog = s.txlog ++ [b] ∧ t.idx = s.idx + 1) ∧
    (s.phase = .txBody → s.plReady = false → t = s)) ∧
  ∀ (s t : State) (w : CmdWord) (later : List (List CmdWord)), s.cmdPort = [w] :: later → commandTurn s = .next t →
    s.cmdValid = true ∧ (s.cmdReady = true → t.cmdPort = later) ∧
    (s.cmdReady = false → ∃ v : CmdWord, decodeCommand v = decodeCommand w ∧ t = { s with cmdPort := [v] :: later })

/-- R195: where a run has ended (`IDLE`, no command offered, no read to come) a turn of the command port or of the block,
and a tick, change nothing but the agenda, and whatever event still falls leaves the end, `TXLOG` and the last answer as
they are: bytes that arrive may join `RXQ` and change nothing else, the Transport's readiness may change, and only a reset
changes the block. That a step with an empty agenda is one of the command port (log 3), that a turn which finds nothing to
do leaves the state but for the agenda (log 29), that a reset leaves the answer of the last read (log 9), that a byte at a
full queue is not queued (log 16), and that `tx_ready` is a field (log 17), is the model's choice. -/
def Obligations.EndedRunRests : Prop :=
  ∀ s : State, s.ended = true →
    (s.agenda = [] → step s = .next s) ∧
    (s.turn = .block ∨ s.turn = .command ∨ s.turn = .tick → step s = .next { s with agenda := s.agenda.tail }) ∧
    (∀ r, s.turn = .txReady r → step s = .next { s with txReady := r, agenda := s.agenda.tail }) ∧
    (∀ bytes, s.turn = .wire bytes ∨ (∃ b, s.turn = .arrive b ∧ bytes = [b]) → ∃ more : List Byte,
      more.Sublist bytes ∧ step s = .next { s with rxq := s.rxq ++ more, agenda := s.agenda.tail }) ∧
    ∃ t, step s = .next t ∧ t.ended = true ∧ t.txlog = s.txlog ∧ t.rdOut = s.rdOut ∧ (∃ more, t.rxq = s.rxq ++ more) ∧
      (s.turn ≠ .rst → t = { s with rxq := t.rxq, txReady := t.txReady, agenda := s.agenda.tail })
end

