-- ==== Sys2Proof/Laws/Frame.lean ====
section
/-! SUPPORT. The frame functions of R60 to R69: exclusive-or, byte order, the shape of an encoded frame. -/

namespace Sys2Proof

@[simp] theorem xorAll_nil : xorAll [] = 0x00 := rfl
@[simp] theorem xorAll_cons (b : Byte) (bs : List Byte) : xorAll (b :: bs) = b ^^^ xorAll bs := rfl

@[simp] theorem xorAll_append (xs ys : List Byte) : xorAll (xs ++ ys) = xorAll xs ^^^ xorAll ys := by
  induction xs with
  | nil => simp
  | cons x xs ih => simp [ih, BitVec.xor_assoc]

/-- `hi * 256 + lo` (R63). -/
theorem joinBytes_toNat (hi lo : Byte) : (joinBytes hi lo).toNat = hi.toNat * 256 + lo.toNat := by
  have h := lo.isLt
  unfold joinBytes
  rw [BitVec.toNat_append, ← Nat.shiftLeft_add_eq_or_of_lt h, Nat.shiftLeft_eq]

@[simp] theorem joinBytes_split (v : Half) : joinBytes (highByte v) (lowByte v) = v := by
  apply BitVec.eq_of_toNat_eq
  rw [joinBytes_toNat]
  simp only [highByte, lowByte, BitVec.extractLsb'_toNat, Nat.shiftRight_eq_div_pow]
  have := v.isLt
  omega

@[simp] theorem highByte_join (hi lo : Byte) : highByte (joinBytes hi lo) = hi := by
  apply BitVec.eq_of_toNat_eq
  simp only [highByte, BitVec.extractLsb'_toNat, Nat.shiftRight_eq_div_pow, joinBytes_toNat]
  have := hi.isLt
  have := lo.isLt
  omega

@[simp] theorem lowByte_join (hi lo : Byte) : lowByte (joinBytes hi lo) = lo := by
  apply BitVec.eq_of_toNat_eq
  simp only [lowByte, BitVec.extractLsb'_toNat, Nat.shiftRight_eq_div_pow, joinBytes_toNat]
  have := hi.isLt
  have := lo.isLt
  omega

@[simp] theorem headerBytes_length (s : Byte) (len : Half) : (headerBytes s len).length = 5 := rfl

/-- What precedes the checksum byte of an encoded frame (R68). -/
def framePre (s : Byte) (body : List Byte) : List Byte :=
  headerBytes s (BitVec.ofNat 16 body.length) ++ body

/-- An encoded frame is its header, its body `cp ∥ data` and their exclusive-or (R65, R68). -/
theorem encodeV2_eq (s : Byte) (cp data : List Byte) :
    encodeV2 s cp data = framePre s (cp ++ data) ++ [xorAll (framePre s (cp ++ data))] := by
  simp [encodeV2, framePre]

theorem framePre_length (s : Byte) (body : List Byte) : (framePre s body).length = 5 + body.length := by
  simp [framePre]

/-- Beyond 65535 body bytes this says something of the model's `encodeV2` only (log 30). -/
@[simp] theorem encodeV2_length (s : Byte) (cp data : List Byte) :
    (encodeV2 s cp data).length = 6 + cp.length + data.length := by
  simp [encodeV2_eq, framePre_length]; omega

/-- The length field of a body that fits it (R63). -/
theorem ofNat_toNat_of_le {n : Nat} (h : n ≤ 65535) : (BitVec.ofNat 16 n).toNat = n := by
  simp only [BitVec.toNat_ofNat]; omega

end Sys2Proof
end

