-- ==== Sys2Proof/Laws/State.lean ====
section
/-! SUPPORT. For every shared update of the state, what it does to each field: one lemma a field, true by unfolding, so
that no later proof unfolds a record update. -/

namespace Sys2Proof.Machine

/-! ### `writeBody` -/

@[simp] theorem State.writeBody_cfg (s : State) (i : Nat) (b : Byte) : (s.writeBody i b).cfg = s.cfg := rfl
@[simp] theorem State.writeBody_seq (s : State) (i : Nat) (b : Byte) : (s.writeBody i b).seq = s.seq := rfl
@[simp] theorem State.writeBody_phase (s : State) (i : Nat) (b : Byte) : (s.writeBody i b).phase = s.phase := rfl
@[simp] theorem State.writeBody_idx (s : State) (i : Nat) (b : Byte) : (s.writeBody i b).idx = s.idx := rfl
@[simp] theorem State.writeBody_cks (s : State) (i : Nat) (b : Byte) : (s.writeBody i b).cks = s.cks := rfl
@[simp] theorem State.writeBody_tseq (s : State) (i : Nat) (b : Byte) : (s.writeBody i b).tseq = s.tseq := rfl
@[simp] theorem State.writeBody_txlen (s : State) (i : Nat) (b : Byte) : (s.writeBody i b).txlen = s.txlen := rfl
@[simp] theorem State.writeBody_pay (s : State) (i : Nat) (b : Byte) : (s.writeBody i b).pay = s.pay := rfl
@[simp] theorem State.writeBody_hdr (s : State) (i : Nat) (b : Byte) : (s.writeBody i b).hdr = s.hdr := rfl
@[simp] theorem State.writeBody_size (s : State) (i : Nat) (b : Byte) : (s.writeBody i b).size = s.size := rfl
@[simp] theorem State.writeBody_maxlen (s : State) (i : Nat) (b : Byte) : (s.writeBody i b).maxlen = s.maxlen := rfl
@[simp] theorem State.writeBody_timer (s : State) (i : Nat) (b : Byte) : (s.writeBody i b).timer = s.timer := rfl
@[simp] theorem State.writeBody_fln (s : State) (i : Nat) (b : Byte) : (s.writeBody i b).fln = s.fln := rfl
@[simp] theorem State.writeBody_status (s : State) (i : Nat) (b : Byte) : (s.writeBody i b).status = s.status := rfl
@[simp] theorem State.writeBody_respLen (s : State) (i : Nat) (b : Byte) : (s.writeBody i b).respLen = s.respLen := rfl
@[simp] theorem State.writeBody_body (s : State) (i : Nat) (b : Byte) : (s.writeBody i b).body = writeCell s.body i b := rfl
@[simp] theorem State.writeBody_rxq (s : State) (i : Nat) (b : Byte) : (s.writeBody i b).rxq = s.rxq := rfl
@[simp] theorem State.writeBody_txlog (s : State) (i : Nat) (b : Byte) : (s.writeBody i b).txlog = s.txlog := rfl
@[simp] theorem State.writeBody_txReady (s : State) (i : Nat) (b : Byte) : (s.writeBody i b).txReady = s.txReady := rfl
@[simp] theorem State.writeBody_cmdPort (s : State) (i : Nat) (b : Byte) : (s.writeBody i b).cmdPort = s.cmdPort := rfl
@[simp] theorem State.writeBody_rdOut (s : State) (i : Nat) (b : Byte) : (s.writeBody i b).rdOut = s.rdOut := rfl
@[simp] theorem State.writeBody_fresh (s : State) (i : Nat) (b : Byte) : (s.writeBody i b).fresh = s.fresh := rfl
@[simp] theorem State.writeBody_payFresh (s : State) (i : Nat) (b : Byte) : (s.writeBody i b).payFresh = s.payFresh := rfl
@[simp] theorem State.writeBody_agenda (s : State) (i : Nat) (b : Byte) : (s.writeBody i b).agenda = s.agenda := rfl

/-! ### `forgetBody` -/

@[simp] theorem State.forgetBody_cfg (s : State) : (s.forgetBody).cfg = s.cfg := rfl
@[simp] theorem State.forgetBody_seq (s : State) : (s.forgetBody).seq = s.seq := rfl
@[simp] theorem State.forgetBody_phase (s : State) : (s.forgetBody).phase = s.phase := rfl
@[simp] theorem State.forgetBody_idx (s : State) : (s.forgetBody).idx = s.idx := rfl
@[simp] theorem State.forgetBody_cks (s : State) : (s.forgetBody).cks = s.cks := rfl
@[simp] theorem State.forgetBody_tseq (s : State) : (s.forgetBody).tseq = s.tseq := rfl
@[simp] theorem State.forgetBody_txlen (s : State) : (s.forgetBody).txlen = s.txlen := rfl
@[simp] theorem State.forgetBody_pay (s : State) : (s.forgetBody).pay = s.pay := rfl
@[simp] theorem State.forgetBody_hdr (s : State) : (s.forgetBody).hdr = s.hdr := rfl
@[simp] theorem State.forgetBody_size (s : State) : (s.forgetBody).size = s.size := rfl
@[simp] theorem State.forgetBody_maxlen (s : State) : (s.forgetBody).maxlen = s.maxlen := rfl
@[simp] theorem State.forgetBody_timer (s : State) : (s.forgetBody).timer = s.timer := rfl
@[simp] theorem State.forgetBody_fln (s : State) : (s.forgetBody).fln = s.fln := rfl
@[simp] theorem State.forgetBody_status (s : State) : (s.forgetBody).status = s.status := rfl
@[simp] theorem State.forgetBody_respLen (s : State) : (s.forgetBody).respLen = s.respLen := rfl
@[simp] theorem State.forgetBody_body (s : State) : (s.forgetBody).body = [] := rfl
@[simp] theorem State.forgetBody_rxq (s : State) : (s.forgetBody).rxq = s.rxq := rfl
@[simp] theorem State.forgetBody_txlog (s : State) : (s.forgetBody).txlog = s.txlog := rfl
@[simp] theorem State.forgetBody_txReady (s : State) : (s.forgetBody).txReady = s.txReady := rfl
@[simp] theorem State.forgetBody_cmdPort (s : State) : (s.forgetBody).cmdPort = s.cmdPort := rfl
@[simp] theorem State.forgetBody_rdOut (s : State) : (s.forgetBody).rdOut = s.rdOut := rfl
@[simp] theorem State.forgetBody_fresh (s : State) : (s.forgetBody).fresh = s.fresh + 1 := rfl
@[simp] theorem State.forgetBody_payFresh (s : State) : (s.forgetBody).payFresh = s.payFresh := rfl
@[simp] theorem State.forgetBody_agenda (s : State) : (s.forgetBody).agenda = s.agenda := rfl

/-! ### `emit` -/

@[simp] theorem State.emit_cfg (s : State) (b : Byte) : (s.emit b).cfg = s.cfg := rfl
@[simp] theorem State.emit_seq (s : State) (b : Byte) : (s.emit b).seq = s.seq := rfl
@[simp] theorem State.emit_phase (s : State) (b : Byte) : (s.emit b).phase = s.phase := rfl
@[simp] theorem State.emit_idx (s : State) (b : Byte) : (s.emit b).idx = s.idx := rfl
@[simp] theorem State.emit_cks (s : State) (b : Byte) : (s.emit b).cks = s.cks := rfl
@[simp] theorem State.emit_tseq (s : State) (b : Byte) : (s.emit b).tseq = s.tseq := rfl
@[simp] theorem State.emit_txlen (s : State) (b : Byte) : (s.emit b).txlen = s.txlen := rfl
@[simp] theorem State.emit_pay (s : State) (b : Byte) : (s.emit b).pay = s.pay := rfl
@[simp] theorem State.emit_hdr (s : State) (b : Byte) : (s.emit b).hdr = s.hdr := rfl
@[simp] theorem State.emit_size (s : State) (b : Byte) : (s.emit b).size = s.size := rfl
@[simp] theorem State.emit_maxlen (s : State) (b : Byte) : (s.emit b).maxlen = s.maxlen := rfl
@[simp] theorem State.emit_timer (s : State) (b : Byte) : (s.emit b).timer = s.timer := rfl
@[simp] theorem State.emit_fln (s : State) (b : Byte) : (s.emit b).fln = s.fln := rfl
@[simp] theorem State.emit_status (s : State) (b : Byte) : (s.emit b).status = s.status := rfl
@[simp] theorem State.emit_respLen (s : State) (b : Byte) : (s.emit b).respLen = s.respLen := rfl
@[simp] theorem State.emit_body (s : State) (b : Byte) : (s.emit b).body = s.body := rfl
@[simp] theorem State.emit_rxq (s : State) (b : Byte) : (s.emit b).rxq = s.rxq := rfl
@[simp] theorem State.emit_txlog (s : State) (b : Byte) : (s.emit b).txlog = s.txlog ++ [b] := rfl
@[simp] theorem State.emit_txReady (s : State) (b : Byte) : (s.emit b).txReady = s.txReady := rfl
@[simp] theorem State.emit_cmdPort (s : State) (b : Byte) : (s.emit b).cmdPort = s.cmdPort := rfl
@[simp] theorem State.emit_rdOut (s : State) (b : Byte) : (s.emit b).rdOut = s.rdOut := rfl
@[simp] theorem State.emit_fresh (s : State) (b : Byte) : (s.emit b).fresh = s.fresh := rfl
@[simp] theorem State.emit_payFresh (s : State) (b : Byte) : (s.emit b).payFresh = s.payFresh := rfl
@[simp] theorem State.emit_agenda (s : State) (b : Byte) : (s.emit b).agenda = s.agenda := rfl

/-! ### `setRxq` -/

@[simp] theorem State.setRxq_cfg (s : State) (q : List Byte) : (s.setRxq q).cfg = s.cfg := rfl
@[simp] theorem State.setRxq_seq (s : State) (q : List Byte) : (s.setRxq q).seq = s.seq := rfl
@[simp] theorem State.setRxq_phase (s : State) (q : List Byte) : (s.setRxq q).phase = s.phase := rfl
@[simp] theorem State.setRxq_idx (s : State) (q : List Byte) : (s.setRxq q).idx = s.idx := rfl
@[simp] theorem State.setRxq_cks (s : State) (q : List Byte) : (s.setRxq q).cks = s.cks := rfl
@[simp] theorem State.setRxq_tseq (s : State) (q : List Byte) : (s.setRxq q).tseq = s.tseq := rfl
@[simp] theorem State.setRxq_txlen (s : State) (q : List Byte) : (s.setRxq q).txlen = s.txlen := rfl
@[simp] theorem State.setRxq_pay (s : State) (q : List Byte) : (s.setRxq q).pay = s.pay := rfl
@[simp] theorem State.setRxq_hdr (s : State) (q : List Byte) : (s.setRxq q).hdr = s.hdr := rfl
@[simp] theorem State.setRxq_size (s : State) (q : List Byte) : (s.setRxq q).size = s.size := rfl
@[simp] theorem State.setRxq_maxlen (s : State) (q : List Byte) : (s.setRxq q).maxlen = s.maxlen := rfl
@[simp] theorem State.setRxq_timer (s : State) (q : List Byte) : (s.setRxq q).timer = s.timer := rfl
@[simp] theorem State.setRxq_fln (s : State) (q : List Byte) : (s.setRxq q).fln = s.fln := rfl
@[simp] theorem State.setRxq_status (s : State) (q : List Byte) : (s.setRxq q).status = s.status := rfl
@[simp] theorem State.setRxq_respLen (s : State) (q : List Byte) : (s.setRxq q).respLen = s.respLen := rfl
@[simp] theorem State.setRxq_body (s : State) (q : List Byte) : (s.setRxq q).body = s.body := rfl
@[simp] theorem State.setRxq_rxq (s : State) (q : List Byte) : (s.setRxq q).rxq = q := rfl
@[simp] theorem State.setRxq_txlog (s : State) (q : List Byte) : (s.setRxq q).txlog = s.txlog := rfl
@[simp] theorem State.setRxq_txReady (s : State) (q : List Byte) : (s.setRxq q).txReady = s.txReady := rfl
@[simp] theorem State.setRxq_cmdPort (s : State) (q : List Byte) : (s.setRxq q).cmdPort = s.cmdPort := rfl
@[simp] theorem State.setRxq_rdOut (s : State) (q : List Byte) : (s.setRxq q).rdOut = s.rdOut := rfl
@[simp] theorem State.setRxq_fresh (s : State) (q : List Byte) : (s.setRxq q).fresh = s.fresh := rfl
@[simp] theorem State.setRxq_payFresh (s : State) (q : List Byte) : (s.setRxq q).payFresh = s.payFresh := rfl
@[simp] theorem State.setRxq_agenda (s : State) (q : List Byte) : (s.setRxq q).agenda = s.agenda := rfl

/-! ### `accumulate` -/

@[simp] theorem State.accumulate_cfg (s : State) (b : Byte) : (s.accumulate b).cfg = s.cfg := rfl
@[simp] theorem State.accumulate_seq (s : State) (b : Byte) : (s.accumulate b).seq = s.seq := rfl
@[simp] theorem State.accumulate_phase (s : State) (b : Byte) : (s.accumulate b).phase = s.phase := rfl
@[simp] theorem State.accumulate_idx (s : State) (b : Byte) : (s.accumulate b).idx = s.idx := rfl
@[simp] theorem State.accumulate_cks (s : State) (b : Byte) : (s.accumulate b).cks = s.cks ^^^ b := rfl
@[simp] theorem State.accumulate_tseq (s : State) (b : Byte) : (s.accumulate b).tseq = s.tseq := rfl
@[simp] theorem State.accumulate_txlen (s : State) (b : Byte) : (s.accumulate b).txlen = s.txlen := rfl
@[simp] theorem State.accumulate_pay (s : State) (b : Byte) : (s.accumulate b).pay = s.pay := rfl
@[simp] theorem State.accumulate_hdr (s : State) (b : Byte) : (s.accumulate b).hdr = s.hdr := rfl
@[simp] theorem State.accumulate_size (s : State) (b : Byte) : (s.accumulate b).size = s.size := rfl
@[simp] theorem State.accumulate_maxlen (s : State) (b : Byte) : (s.accumulate b).maxlen = s.maxlen := rfl
@[simp] theorem State.accumulate_timer (s : State) (b : Byte) : (s.accumulate b).timer = s.timer := rfl
@[simp] theorem State.accumulate_fln (s : State) (b : Byte) : (s.accumulate b).fln = s.fln := rfl
@[simp] theorem State.accumulate_status (s : State) (b : Byte) : (s.accumulate b).status = s.status := rfl
@[simp] theorem State.accumulate_respLen (s : State) (b : Byte) : (s.accumulate b).respLen = s.respLen := rfl
@[simp] theorem State.accumulate_body (s : State) (b : Byte) : (s.accumulate b).body = s.body := rfl
@[simp] theorem State.accumulate_rxq (s : State) (b : Byte) : (s.accumulate b).rxq = s.rxq := rfl
@[simp] theorem State.accumulate_txlog (s : State) (b : Byte) : (s.accumulate b).txlog = s.txlog := rfl
@[simp] theorem State.accumulate_txReady (s : State) (b : Byte) : (s.accumulate b).txReady = s.txReady := rfl
@[simp] theorem State.accumulate_cmdPort (s : State) (b : Byte) : (s.accumulate b).cmdPort = s.cmdPort := rfl
@[simp] theorem State.accumulate_rdOut (s : State) (b : Byte) : (s.accumulate b).rdOut = s.rdOut := rfl
@[simp] theorem State.accumulate_fresh (s : State) (b : Byte) : (s.accumulate b).fresh = s.fresh := rfl
@[simp] theorem State.accumulate_payFresh (s : State) (b : Byte) : (s.accumulate b).payFresh = s.payFresh := rfl
@[simp] theorem State.accumulate_agenda (s : State) (b : Byte) : (s.accumulate b).agenda = s.agenda := rfl

/-! ### `emitCounted` -/

@[simp] theorem State.emitCounted_cfg (s : State) (b : Byte) : (s.emitCounted b).cfg = s.cfg := rfl
@[simp] theorem State.emitCounted_seq (s : State) (b : Byte) : (s.emitCounted b).seq = s.seq := rfl
@[simp] theorem State.emitCounted_phase (s : State) (b : Byte) : (s.emitCounted b).phase = s.phase := rfl
@[simp] theorem State.emitCounted_idx (s : State) (b : Byte) : (s.emitCounted b).idx = s.idx + 1 := rfl
@[simp] theorem State.emitCounted_cks (s : State) (b : Byte) : (s.emitCounted b).cks = s.cks ^^^ b := rfl
@[simp] theorem State.emitCounted_tseq (s : State) (b : Byte) : (s.emitCounted b).tseq = s.tseq := rfl
@[simp] theorem State.emitCounted_txlen (s : State) (b : Byte) : (s.emitCounted b).txlen = s.txlen := rfl
@[simp] theorem State.emitCounted_pay (s : State) (b : Byte) : (s.emitCounted b).pay = s.pay := rfl
@[simp] theorem State.emitCounted_hdr (s : State) (b : Byte) : (s.emitCounted b).hdr = s.hdr := rfl
@[simp] theorem State.emitCounted_size (s : State) (b : Byte) : (s.emitCounted b).size = s.size := rfl
@[simp] theorem State.emitCounted_maxlen (s : State) (b : Byte) : (s.emitCounted b).maxlen = s.maxlen := rfl
@[simp] theorem State.emitCounted_timer (s : State) (b : Byte) : (s.emitCounted b).timer = s.timer := rfl
@[simp] theorem State.emitCounted_fln (s : State) (b : Byte) : (s.emitCounted b).fln = s.fln := rfl
@[simp] theorem State.emitCounted_status (s : State) (b : Byte) : (s.emitCounted b).status = s.status := rfl
@[simp] theorem State.emitCounted_respLen (s : State) (b : Byte) : (s.emitCounted b).respLen = s.respLen := rfl
@[simp] theorem State.emitCounted_body (s : State) (b : Byte) : (s.emitCounted b).body = s.body := rfl
@[simp] theorem State.emitCounted_rxq (s : State) (b : Byte) : (s.emitCounted b).rxq = s.rxq := rfl
@[simp] theorem State.emitCounted_txlog (s : State) (b : Byte) : (s.emitCounted b).txlog = s.txlog ++ [b] := rfl
@[simp] theorem State.emitCounted_txReady (s : State) (b : Byte) : (s.emitCounted b).txReady = s.txReady := rfl
@[simp] theorem State.emitCounted_cmdPort (s : State) (b : Byte) : (s.emitCounted b).cmdPort = s.cmdPort := rfl
@[simp] theorem State.emitCounted_rdOut (s : State) (b : Byte) : (s.emitCounted b).rdOut = s.rdOut := rfl
@[simp] theorem State.emitCounted_fresh (s : State) (b : Byte) : (s.emitCounted b).fresh = s.fresh := rfl
@[simp] theorem State.emitCounted_payFresh (s : State) (b : Byte) : (s.emitCounted b).payFresh = s.payFresh := rfl
@[simp] theorem State.emitCounted_agenda (s : State) (b : Byte) : (s.emitCounted b).agenda = s.agenda := rfl

/-! ### `arriveAll` -/

@[simp] theorem State.arriveAll_cfg (s : State) (bs : List Byte) : (s.arriveAll bs).cfg = s.cfg := rfl
@[simp] theorem State.arriveAll_seq (s : State) (bs : List Byte) : (s.arriveAll bs).seq = s.seq := rfl
@[simp] theorem State.arriveAll_phase (s : State) (bs : List Byte) : (s.arriveAll bs).phase = s.phase := rfl
@[simp] theorem State.arriveAll_idx (s : State) (bs : List Byte) : (s.arriveAll bs).idx = s.idx := rfl
@[simp] theorem State.arriveAll_cks (s : State) (bs : List Byte) : (s.arriveAll bs).cks = s.cks := rfl
@[simp] theorem State.arriveAll_tseq (s : State) (bs : List Byte) : (s.arriveAll bs).tseq = s.tseq := rfl
@[simp] theorem State.arriveAll_txlen (s : State) (bs : List Byte) : (s.arriveAll bs).txlen = s.txlen := rfl
@[simp] theorem State.arriveAll_pay (s : State) (bs : List Byte) : (s.arriveAll bs).pay = s.pay := rfl
@[simp] theorem State.arriveAll_hdr (s : State) (bs : List Byte) : (s.arriveAll bs).hdr = s.hdr := rfl
@[simp] theorem State.arriveAll_size (s : State) (bs : List Byte) : (s.arriveAll bs).size = s.size := rfl
@[simp] theorem State.arriveAll_maxlen (s : State) (bs : List Byte) : (s.arriveAll bs).maxlen = s.maxlen := rfl
@[simp] theorem State.arriveAll_timer (s : State) (bs : List Byte) : (s.arriveAll bs).timer = s.timer := rfl
@[simp] theorem State.arriveAll_fln (s : State) (bs : List Byte) : (s.arriveAll bs).fln = s.fln := rfl
@[simp] theorem State.arriveAll_status (s : State) (bs : List Byte) : (s.arriveAll bs).status = s.status := rfl
@[simp] theorem State.arriveAll_respLen (s : State) (bs : List Byte) : (s.arriveAll bs).respLen = s.respLen := rfl
@[simp] theorem State.arriveAll_body (s : State) (bs : List Byte) : (s.arriveAll bs).body = s.body := rfl
@[simp] theorem State.arriveAll_rxq (s : State) (bs : List Byte) : (s.arriveAll bs).rxq = bs.foldl (arriveIn s.cfg.rxqCap) s.rxq := rfl
@[simp] theorem State.arriveAll_txlog (s : State) (bs : List Byte) : (s.arriveAll bs).txlog = s.txlog := rfl
@[simp] theorem State.arriveAll_txReady (s : State) (bs : List Byte) : (s.arriveAll bs).txReady = s.txReady := rfl
@[simp] theorem State.arriveAll_cmdPort (s : State) (bs : List Byte) : (s.arriveAll bs).cmdPort = s.cmdPort := rfl
@[simp] theorem State.arriveAll_rdOut (s : State) (bs : List Byte) : (s.arriveAll bs).rdOut = s.rdOut := rfl
@[simp] theorem State.arriveAll_fresh (s : State) (bs : List Byte) : (s.arriveAll bs).fresh = s.fresh := rfl
@[simp] theorem State.arriveAll_payFresh (s : State) (bs : List Byte) : (s.arriveAll bs).payFresh = s.payFresh := rfl
@[simp] theorem State.arriveAll_agenda (s : State) (bs : List Byte) : (s.arriveAll bs).agenda = s.agenda := rfl

/-! ### `complete` -/

@[simp] theorem State.complete_cfg (s : State) (c : Code) : (s.complete c).cfg = s.cfg := rfl
@[simp] theorem State.complete_seq (s : State) (c : Code) : (s.complete c).seq = s.seq := rfl
@[simp] theorem State.complete_phase (s : State) (c : Code) : (s.complete c).phase = .idle := rfl
@[simp] theorem State.complete_idx (s : State) (c : Code) : (s.complete c).idx = s.idx := rfl
@[simp] theorem State.complete_cks (s : State) (c : Code) : (s.complete c).cks = s.cks := rfl
@[simp] theorem State.complete_tseq (s : State) (c : Code) : (s.complete c).tseq = s.tseq := rfl
@[simp] theorem State.complete_txlen (s : State) (c : Code) : (s.complete c).txlen = s.txlen := rfl
@[simp] theorem State.complete_pay (s : State) (c : Code) : (s.complete c).pay = s.pay := rfl
@[simp] theorem State.complete_hdr (s : State) (c : Code) : (s.complete c).hdr = s.hdr := rfl
@[simp] theorem State.complete_size (s : State) (c : Code) : (s.complete c).size = s.size := rfl
@[simp] theorem State.complete_maxlen (s : State) (c : Code) : (s.complete c).maxlen = s.maxlen := rfl
@[simp] theorem State.complete_timer (s : State) (c : Code) : (s.complete c).timer = s.timer := rfl
@[simp] theorem State.complete_fln (s : State) (c : Code) : (s.complete c).fln = s.fln := rfl
@[simp] theorem State.complete_status (s : State) (c : Code) : (s.complete c).status = c := rfl
@[simp] theorem State.complete_respLen (s : State) (c : Code) : (s.complete c).respLen = s.respLen := rfl
@[simp] theorem State.complete_body (s : State) (c : Code) : (s.complete c).body = s.body := rfl
@[simp] theorem State.complete_rxq (s : State) (c : Code) : (s.complete c).rxq = s.rxq := rfl
@[simp] theorem State.complete_txlog (s : State) (c : Code) : (s.complete c).txlog = s.txlog := rfl
@[simp] theorem State.complete_txReady (s : State) (c : Code) : (s.complete c).txReady = s.txReady := rfl
@[simp] theorem State.complete_cmdPort (s : State) (c : Code) : (s.complete c).cmdPort = s.cmdPort := rfl
@[simp] theorem State.complete_rdOut (s : State) (c : Code) : (s.complete c).rdOut = s.rdOut := rfl
@[simp] theorem State.complete_fresh (s : State) (c : Code) : (s.complete c).fresh = s.fresh := rfl
@[simp] theorem State.complete_payFresh (s : State) (c : Code) : (s.complete c).payFresh = s.payFresh := rfl
@[simp] theorem State.complete_agenda (s : State) (c : Code) : (s.complete c).agenda = s.agenda := rfl

/-! ### `fail` -/

@[simp] theorem State.fail_cfg (s : State) (c : Code) : (s.fail c).cfg = s.cfg := rfl
@[simp] theorem State.fail_seq (s : State) (c : Code) : (s.fail c).seq = s.seq := rfl
@[simp] theorem State.fail_phase (s : State) (c : Code) : (s.fail c).phase = .idle := rfl
@[simp] theorem State.fail_idx (s : State) (c : Code) : (s.fail c).idx = s.idx := rfl
@[simp] theorem State.fail_cks (s : State) (c : Code) : (s.fail c).cks = s.cks := rfl
@[simp] theorem State.fail_tseq (s : State) (c : Code) : (s.fail c).tseq = s.tseq := rfl
@[simp] theorem State.fail_txlen (s : State) (c : Code) : (s.fail c).txlen = s.txlen := rfl
@[simp] theorem State.fail_pay (s : State) (c : Code) : (s.fail c).pay = s.pay := rfl
@[simp] theorem State.fail_hdr (s : State) (c : Code) : (s.fail c).hdr = s.hdr := rfl
@[simp] theorem State.fail_size (s : State) (c : Code) : (s.fail c).size = s.size := rfl
@[simp] theorem State.fail_maxlen (s : State) (c : Code) : (s.fail c).maxlen = s.maxlen := rfl
@[simp] theorem State.fail_timer (s : State) (c : Code) : (s.fail c).timer = s.timer := rfl
@[simp] theorem State.fail_fln (s : State) (c : Code) : (s.fail c).fln = s.fln := rfl
@[simp] theorem State.fail_status (s : State) (c : Code) : (s.fail c).status = c := rfl
@[simp] theorem State.fail_respLen (s : State) (c : Code) : (s.fail c).respLen = 0 := rfl
@[simp] theorem State.fail_body (s : State) (c : Code) : (s.fail c).body = [] := rfl
@[simp] theorem State.fail_rxq (s : State) (c : Code) : (s.fail c).rxq = s.rxq := rfl
@[simp] theorem State.fail_txlog (s : State) (c : Code) : (s.fail c).txlog = s.txlog := rfl
@[simp] theorem State.fail_txReady (s : State) (c : Code) : (s.fail c).txReady = s.txReady := rfl
@[simp] theorem State.fail_cmdPort (s : State) (c : Code) : (s.fail c).cmdPort = s.cmdPort := rfl
@[simp] theorem State.fail_rdOut (s : State) (c : Code) : (s.fail c).rdOut = s.rdOut := rfl
@[simp] theorem State.fail_fresh (s : State) (c : Code) : (s.fail c).fresh = s.fresh + 1 := rfl
@[simp] theorem State.fail_payFresh (s : State) (c : Code) : (s.fail c).payFresh = s.payFresh := rfl
@[simp] theorem State.fail_agenda (s : State) (c : Code) : (s.fail c).agenda = s.agenda := rfl

/-! ### `refuse` -/

@[simp] theorem State.refuse_cfg (s : State) (c : Code) : (s.refuse c).cfg = s.cfg := rfl
@[simp] theorem State.refuse_seq (s : State) (c : Code) : (s.refuse c).seq = s.seq := rfl
@[simp] theorem State.refuse_phase (s : State) (c : Code) : (s.refuse c).phase = s.phase := rfl
@[simp] theorem State.refuse_idx (s : State) (c : Code) : (s.refuse c).idx = s.idx := rfl
@[simp] theorem State.refuse_cks (s : State) (c : Code) : (s.refuse c).cks = s.cks := rfl
@[simp] theorem State.refuse_tseq (s : State) (c : Code) : (s.refuse c).tseq = s.tseq := rfl
@[simp] theorem State.refuse_txlen (s : State) (c : Code) : (s.refuse c).txlen = s.txlen := rfl
@[simp] theorem State.refuse_pay (s : State) (c : Code) : (s.refuse c).pay = s.pay := rfl
@[simp] theorem State.refuse_hdr (s : State) (c : Code) : (s.refuse c).hdr = s.hdr := rfl
@[simp] theorem State.refuse_size (s : State) (c : Code) : (s.refuse c).size = s.size := rfl
@[simp] theorem State.refuse_maxlen (s : State) (c : Code) : (s.refuse c).maxlen = s.maxlen := rfl
@[simp] theorem State.refuse_timer (s : State) (c : Code) : (s.refuse c).timer = s.timer := rfl
@[simp] theorem State.refuse_fln (s : State) (c : Code) : (s.refuse c).fln = s.fln := rfl
@[simp] theorem State.refuse_status (s : State) (c : Code) : (s.refuse c).status = c := rfl
@[simp] theorem State.refuse_respLen (s : State) (c : Code) : (s.refuse c).respLen = s.respLen := rfl
@[simp] theorem State.refuse_body (s : State) (c : Code) : (s.refuse c).body = s.body := rfl
@[simp] theorem State.refuse_rxq (s : State) (c : Code) : (s.refuse c).rxq = s.rxq := rfl
@[simp] theorem State.refuse_txlog (s : State) (c : Code) : (s.refuse c).txlog = s.txlog := rfl
@[simp] theorem State.refuse_txReady (s : State) (c : Code) : (s.refuse c).txReady = s.txReady := rfl
@[simp] theorem State.refuse_cmdPort (s : State) (c : Code) : (s.refuse c).cmdPort = s.cmdPort := rfl
@[simp] theorem State.refuse_rdOut (s : State) (c : Code) : (s.refuse c).rdOut = s.rdOut := rfl
@[simp] theorem State.refuse_fresh (s : State) (c : Code) : (s.refuse c).fresh = s.fresh := rfl
@[simp] theorem State.refuse_payFresh (s : State) (c : Code) : (s.refuse c).payFresh = s.payFresh := rfl
@[simp] theorem State.refuse_agenda (s : State) (c : Code) : (s.refuse c).agenda = s.agenda := rfl

/-! ### `hold` -/

@[simp] theorem State.hold_cfg (s : State) (ws : List CmdWord) : (s.hold ws).cfg = s.cfg := rfl
@[simp] theorem State.hold_seq (s : State) (ws : List CmdWord) : (s.hold ws).seq = s.seq := rfl
@[simp] theorem State.hold_phase (s : State) (ws : List CmdWord) : (s.hold ws).phase = s.phase := rfl
@[simp] theorem State.hold_idx (s : State) (ws : List CmdWord) : (s.hold ws).idx = s.idx := rfl
@[simp] theorem State.hold_cks (s : State) (ws : List CmdWord) : (s.hold ws).cks = s.cks := rfl
@[simp] theorem State.hold_tseq (s : State) (ws : List CmdWord) : (s.hold ws).tseq = s.tseq := rfl
@[simp] theorem State.hold_txlen (s : State) (ws : List CmdWord) : (s.hold ws).txlen = s.txlen := rfl
@[simp] theorem State.hold_pay (s : State) (ws : List CmdWord) : (s.hold ws).pay = s.pay := rfl
@[simp] theorem State.hold_hdr (s : State) (ws : List CmdWord) : (s.hold ws).hdr = s.hdr := rfl
@[simp] theorem State.hold_size (s : State) (ws : List CmdWord) : (s.hold ws).size = s.size := rfl
@[simp] theorem State.hold_maxlen (s : State) (ws : List CmdWord) : (s.hold ws).maxlen = s.maxlen := rfl
@[simp] theorem State.hold_timer (s : State) (ws : List CmdWord) : (s.hold ws).timer = s.timer := rfl
@[simp] theorem State.hold_fln (s : State) (ws : List CmdWord) : (s.hold ws).fln = s.fln := rfl
@[simp] theorem State.hold_status (s : State) (ws : List CmdWord) : (s.hold ws).status = s.status := rfl
@[simp] theorem State.hold_respLen (s : State) (ws : List CmdWord) : (s.hold ws).respLen = s.respLen := rfl
@[simp] theorem State.hold_body (s : State) (ws : List CmdWord) : (s.hold ws).body = s.body := rfl
@[simp] theorem State.hold_rxq (s : State) (ws : List CmdWord) : (s.hold ws).rxq = s.rxq := rfl
@[simp] theorem State.hold_txlog (s : State) (ws : List CmdWord) : (s.hold ws).txlog = s.txlog := rfl
@[simp] theorem State.hold_txReady (s : State) (ws : List CmdWord) : (s.hold ws).txReady = s.txReady := rfl
@[simp] theorem State.hold_cmdPort (s : State) (ws : List CmdWord) : (s.hold ws).cmdPort = ws :: s.cmdPort := rfl
@[simp] theorem State.hold_rdOut (s : State) (ws : List CmdWord) : (s.hold ws).rdOut = s.rdOut := rfl
@[simp] theorem State.hold_fresh (s : State) (ws : List CmdWord) : (s.hold ws).fresh = s.fresh := rfl
@[simp] theorem State.hold_payFresh (s : State) (ws : List CmdWord) : (s.hold ws).payFresh = s.payFresh := rfl
@[simp] theorem State.hold_agenda (s : State) (ws : List CmdWord) : (s.hold ws).agenda = s.agenda := rfl

/-! ### `answer` -/

@[simp] theorem State.answer_cfg (s : State) (d : Option Half) : (s.answer d).cfg = s.cfg := rfl
@[simp] theorem State.answer_seq (s : State) (d : Option Half) : (s.answer d).seq = s.seq := rfl
@[simp] theorem State.answer_phase (s : State) (d : Option Half) : (s.answer d).phase = s.phase := rfl
@[simp] theorem State.answer_idx (s : State) (d : Option Half) : (s.answer d).idx = s.idx := rfl
@[simp] theorem State.answer_cks (s : State) (d : Option Half) : (s.answer d).cks = s.cks := rfl
@[simp] theorem State.answer_tseq (s : State) (d : Option Half) : (s.answer d).tseq = s.tseq := rfl
@[simp] theorem State.answer_txlen (s : State) (d : Option Half) : (s.answer d).txlen = s.txlen := rfl
@[simp] theorem State.answer_pay (s : State) (d : Option Half) : (s.answer d).pay = s.pay := rfl
@[simp] theorem State.answer_hdr (s : State) (d : Option Half) : (s.answer d).hdr = s.hdr := rfl
@[simp] theorem State.answer_size (s : State) (d : Option Half) : (s.answer d).size = s.size := rfl
@[simp] theorem State.answer_maxlen (s : State) (d : Option Half) : (s.answer d).maxlen = s.maxlen := rfl
@[simp] theorem State.answer_timer (s : State) (d : Option Half) : (s.answer d).timer = s.timer := rfl
@[simp] theorem State.answer_fln (s : State) (d : Option Half) : (s.answer d).fln = s.fln := rfl
@[simp] theorem State.answer_status (s : State) (d : Option Half) : (s.answer d).status = s.status := rfl
@[simp] theorem State.answer_respLen (s : State) (d : Option Half) : (s.answer d).respLen = s.respLen := rfl
@[simp] theorem State.answer_body (s : State) (d : Option Half) : (s.answer d).body = s.body := rfl
@[simp] theorem State.answer_rxq (s : State) (d : Option Half) : (s.answer d).rxq = s.rxq := rfl
@[simp] theorem State.answer_txlog (s : State) (d : Option Half) : (s.answer d).txlog = s.txlog := rfl
@[simp] theorem State.answer_txReady (s : State) (d : Option Half) : (s.answer d).txReady = s.txReady := rfl
@[simp] theorem State.answer_cmdPort (s : State) (d : Option Half) : (s.answer d).cmdPort = s.cmdPort := rfl
@[simp] theorem State.answer_rdOut (s : State) (d : Option Half) : (s.answer d).rdOut = d := rfl
@[simp] theorem State.answer_fresh (s : State) (d : Option Half) : (s.answer d).fresh = s.fresh := rfl
@[simp] theorem State.answer_payFresh (s : State) (d : Option Half) : (s.answer d).payFresh = s.payFresh := rfl
@[simp] theorem State.answer_agenda (s : State) (d : Option Half) : (s.answer d).agenda = s.agenda := rfl

/-! ### `tickEvent` -/

@[simp] theorem tickEvent_cfg (s : State) : (tickEvent s).cfg = s.cfg := rfl
@[simp] theorem tickEvent_seq (s : State) : (tickEvent s).seq = s.seq := rfl
@[simp] theorem tickEvent_phase (s : State) : (tickEvent s).phase = s.phase := rfl
@[simp] theorem tickEvent_idx (s : State) : (tickEvent s).idx = s.idx := rfl
@[simp] theorem tickEvent_cks (s : State) : (tickEvent s).cks = s.cks := rfl
@[simp] theorem tickEvent_tseq (s : State) : (tickEvent s).tseq = s.tseq := rfl
@[simp] theorem tickEvent_txlen (s : State) : (tickEvent s).txlen = s.txlen := rfl
@[simp] theorem tickEvent_pay (s : State) : (tickEvent s).pay = s.pay := rfl
@[simp] theorem tickEvent_hdr (s : State) : (tickEvent s).hdr = s.hdr := rfl
@[simp] theorem tickEvent_size (s : State) : (tickEvent s).size = s.size := rfl
@[simp] theorem tickEvent_maxlen (s : State) : (tickEvent s).maxlen = s.maxlen := rfl
@[simp] theorem tickEvent_timer (s : State) : (tickEvent s).timer = if s.phase.isRx then s.timer - 1 else s.timer := rfl
@[simp] theorem tickEvent_fln (s : State) : (tickEvent s).fln = s.fln := rfl
@[simp] theorem tickEvent_status (s : State) : (tickEvent s).status = s.status := rfl
@[simp] theorem tickEvent_respLen (s : State) : (tickEvent s).respLen = s.respLen := rfl
@[simp] theorem tickEvent_body (s : State) : (tickEvent s).body = s.body := rfl
@[simp] theorem tickEvent_rxq (s : State) : (tickEvent s).rxq = s.rxq := rfl
@[simp] theorem tickEvent_txlog (s : State) : (tickEvent s).txlog = s.txlog := rfl
@[simp] theorem tickEvent_txReady (s : State) : (tickEvent s).txReady = s.txReady := rfl
@[simp] theorem tickEvent_cmdPort (s : State) : (tickEvent s).cmdPort = s.cmdPort := rfl
@[simp] theorem tickEvent_rdOut (s : State) : (tickEvent s).rdOut = s.rdOut := rfl
@[simp] theorem tickEvent_fresh (s : State) : (tickEvent s).fresh = s.fresh := rfl
@[simp] theorem tickEvent_payFresh (s : State) : (tickEvent s).payFresh = s.payFresh := rfl
@[simp] theorem tickEvent_agenda (s : State) : (tickEvent s).agenda = s.agenda := rfl

/-! ### `rstEvent` -/

@[simp] theorem rstEvent_cfg (s : State) : (rstEvent s).cfg = s.cfg := rfl
@[simp] theorem rstEvent_seq (s : State) : (rstEvent s).seq = s.cfg.seqReset := rfl
@[simp] theorem rstEvent_phase (s : State) : (rstEvent s).phase = .idle := rfl
@[simp] theorem rstEvent_cks (s : State) : (rstEvent s).cks = 0x00 := rfl
@[simp] theorem rstEvent_timer (s : State) : (rstEvent s).timer = 0 := rfl
@[simp] theorem rstEvent_status (s : State) : (rstEvent s).status = .ok := rfl
@[simp] theorem rstEvent_respLen (s : State) : (rstEvent s).respLen = 0 := rfl
@[simp] theorem rstEvent_body (s : State) : (rstEvent s).body = [] := rfl
@[simp] theorem rstEvent_rxq (s : State) : (rstEvent s).rxq = s.rxq := rfl
@[simp] theorem rstEvent_txlog (s : State) : (rstEvent s).txlog = s.txlog := rfl
@[simp] theorem rstEvent_txReady (s : State) : (rstEvent s).txReady = s.txReady := rfl
@[simp] theorem rstEvent_cmdPort (s : State) : (rstEvent s).cmdPort = s.cmdPort := rfl
@[simp] theorem rstEvent_rdOut (s : State) : (rstEvent s).rdOut = s.rdOut := rfl
@[simp] theorem rstEvent_fresh (s : State) : (rstEvent s).fresh = s.fresh + 1 := rfl
@[simp] theorem rstEvent_payFresh (s : State) : (rstEvent s).payFresh = s.payFresh := rfl
@[simp] theorem rstEvent_agenda (s : State) : (rstEvent s).agenda = s.agenda := rfl

end Sys2Proof.Machine
end

