-- ==== Sys2Proof/Laws/Memory.lean ====
section
/-! SUPPORT. The memory `BODY`: reads after writes, what is known, and the canonical form. -/

namespace Sys2Proof.Machine

/-- Looking a cell up after a write (R23): the byte written at its index, every other index as before. -/
theorem find_writeCell (cs : List Host.Cell) (i j : Nat) (b : Byte) :
    (writeCell cs i b).find? (fun c => c.1 == j) =
      if j = i then some (i, b) else cs.find? (fun c => c.1 == j) := by
  have hd (ds : List Host.Cell) : ((i, b) :: ds).find? (fun c => c.1 == j) =
      if j = i then some (i, b) else ds.find? (fun c => c.1 == j) := by
    by_cases h : j = i
    · subst h; simp
    · have : (i == j) = false := by simpa using Ne.symm h
      simp [this, h]
  induction cs with
  | nil => exact hd []
  | cons c cs ih =>
    simp only [writeCell]
    split
    · exact hd _
    · split
      · next hlt heq =>
        rw [hd]
        by_cases h : j = i
        · simp [h]
        · have : (c.1 == j) = false := by simpa [← heq] using Ne.symm h
          simp [this, h]
      · next hlt hne =>
        rw [List.find?_cons, List.find?_cons, ih]
        by_cases h : j = i
        · subst h
          have : (c.1 == j) = false := by simpa using Ne.symm hne
          simp [this]
        · simp [h]

/-- Whether an index is listed after a write. -/
theorem any_writeCell (cs : List Host.Cell) (i j : Nat) (b : Byte) :
    (writeCell cs i b).any (fun c => c.1 == j) = (decide (j = i) || cs.any (fun c => c.1 == j)) := by
  have key (ds : List Host.Cell) : ds.any (fun c => c.1 == j) = (ds.find? (fun c => c.1 == j)).isSome := by
    rw [Bool.eq_iff_iff, List.find?_isSome, List.any_eq_true]
  rw [key, key, find_writeCell]
  by_cases h : j = i <;> simp [h]

theorem mem_writeCell {cs : List Host.Cell} {i : Nat} {b : Byte} {c : Host.Cell} (h : c ∈ writeCell cs i b) :
    c = (i, b) ∨ c ∈ cs := by
  induction cs with
  | nil => simpa [writeCell] using h
  | cons d cs ih =>
    simp only [writeCell] at h
    split at h
    · simpa using h
    · split at h
      · rcases List.mem_cons.mp h with h | h
        · exact .inl h
        · exact .inr (List.mem_cons_of_mem _ h)
      · rcases List.mem_cons.mp h with h | h
        · exact .inr (h ▸ List.mem_cons_self)
        · exact (ih h).imp id (List.mem_cons_of_mem _)

/-- The canonical form in terms of the head and the rest. -/
theorem Memory.wf_cons (c : Host.Cell) (cs : List Host.Cell) :
    Memory.wf (c :: cs) = true ↔ (∀ d, cs.head? = some d → c.1 < d.1) ∧ Memory.wf cs = true := by
  cases cs with
  | nil => simp [Memory.wf]
  | cons d cs => simp [Memory.wf]

theorem head_writeCell {cs : List Host.Cell} {i : Nat} {b : Byte} {d : Host.Cell}
    (h : (writeCell cs i b).head? = some d) : d = (i, b) ∨ cs.head? = some d := by
  cases cs with
  | nil => simpa [writeCell, eq_comm] using h
  | cons c cs =>
    simp only [writeCell] at h
    split at h
    · simp at h; exact .inl h.symm
    · split at h
      · simp at h; exact .inl h.symm
      · simp at h; exact .inr (by simp [h])

/-- Every write keeps the canonical form. -/
theorem writeCell_wf (cs : List Host.Cell) (i : Nat) (b : Byte) (h : Memory.wf cs = true) :
    Memory.wf (writeCell cs i b) = true := by
  induction cs with
  | nil => rfl
  | cons c cs ih =>
    have hc := (Memory.wf_cons c cs).mp h
    simp only [writeCell]
    split
    · next hlt => exact (Memory.wf_cons _ _).mpr ⟨by simpa using hlt, h⟩
    · split
      · next heq => exact (Memory.wf_cons _ _).mpr ⟨by simpa [heq] using hc.1, hc.2⟩
      · next hlt hne =>
        refine (Memory.wf_cons _ _).mpr ⟨fun d hd => ?_, ih hc.2⟩
        rcases head_writeCell hd with rfl | hd
        · simp only; omega
        · exact hc.1 d hd

/-- The empty buffer, at reset and whenever `BODY` becomes unspecified, is canonical. -/
theorem reset_body_wf : Memory.wf State.reset.body = true := rfl

/-- A byte written reads back; every other byte reads as before. -/
theorem bodyByte_writeBody (s : State) (i : Nat) (b : Byte) (j : Nat) :
    (s.writeBody i b).bodyByte j = if j = i then b else s.bodyByte j := by
  unfold State.bodyByte
  rw [State.writeBody_body, State.writeBody_fresh, find_writeCell]
  by_cases h : j = i <;> simp [h]

theorem bodyKnown_writeBody (s : State) (i : Nat) (b : Byte) (j : Nat) :
    (s.writeBody i b).bodyKnown j = (decide (j = i) || s.bodyKnown j) :=
  any_writeCell s.body i j b

@[simp] theorem bodyKnown_forgetBody (s : State) (i : Nat) : s.forgetBody.bodyKnown i = false := rfl

/-- `BODY` reads the same in two states with the same cells and the same count of unspecified moments. -/
theorem bodyByte_congr {s t : State} (hb : t.body = s.body) (hf : t.fresh = s.fresh) (i : Nat) :
    t.bodyByte i = s.bodyByte i := by
  unfold State.bodyByte; rw [hb, hf]

theorem bodyKnown_congr {s t : State} (hb : t.body = s.body) (i : Nat) : t.bodyKnown i = s.bodyKnown i := by
  unfold State.bodyKnown; rw [hb]

end Sys2Proof.Machine
end

