-- ==== Sys2Proof/Laws/Ops.lean ====
section
/-! SUPPORT. One lemma per shared operation and per internal transition, saying once everything it can do; provers cite
these instead of unfolding the definitions. -/

namespace Sys2Proof.Machine

/-! ### Arrivals (R24) -/

@[simp] theorem arriveIn_none (q : List Byte) (b : Byte) : arriveIn none q b = q ++ [b] := rfl

theorem foldl_arriveIn_none (q bs : List Byte) : bs.foldl (arriveIn none) q = q ++ bs := by
  induction bs generalizing q with
  | nil => simp
  | cons b bs ih => simp [ih]

/-- With an unbounded queue every byte joins the queue at its tail. -/
theorem arriveAll_rxq_unbounded {s : State} (h : s.cfg.rxqCap = none) (bs : List Byte) :
    (s.arriveAll bs).rxq = s.rxq ++ bs := by
  rw [State.arriveAll_rxq, h, foldl_arriveIn_none]

theorem foldl_arriveIn_room (n : Nat) (q bs : List Byte) (h : q.length + bs.length ≤ n) :
    bs.foldl (arriveIn (some n)) q = q ++ bs := by
  induction bs generalizing q with
  | nil => simp
  | cons b bs ih =>
    simp only [List.length_cons] at h
    have hq : q.length < n := by omega
    rw [List.foldl_cons, show arriveIn (some n) q b = q ++ [b] by simp [arriveIn, hq], ih _ (by simp; omega)]
    simp

/-- Whatever the capacity, arrivals only append: the bytes that were queued stay in front, in order. -/
theorem arriveAll_rxq_append (s : State) (bs : List Byte) : ∃ more, (s.arriveAll bs).rxq = s.rxq ++ more := by
  rw [State.arriveAll_rxq]
  generalize s.rxq = q
  generalize s.cfg.rxqCap = cap
  induction bs generalizing q with
  | nil => exact ⟨[], by simp⟩
  | cons b bs ih =>
    obtain ⟨more, hm⟩ := ih (arriveIn cap q b)
    rw [List.foldl_cons, hm]
    unfold arriveIn
    split
    · exact ⟨b :: more, by simp⟩
    · split
      · exact ⟨b :: more, by simp⟩
      · exact ⟨more, rfl⟩

/-- Arrivals keep within the capacity of the queue. -/
theorem arriveAll_withinCap {s : State} (bs : List Byte) (h : withinCap s.cfg.rxqCap s.rxq.length) :
    withinCap s.cfg.rxqCap (s.arriveAll bs).rxq.length := by
  rw [State.arriveAll_rxq]
  revert h
  generalize s.rxq = q
  generalize s.cfg.rxqCap = cap
  induction bs generalizing q with
  | nil => exact id
  | cons b bs ih =>
    intro h
    rw [List.foldl_cons]
    refine ih _ ?_
    intro m hm
    subst hm
    have := h m rfl
    simp only [arriveIn]
    split
    · simp; omega
    · exact this

/-! ### Acceptance and hold (R72) -/

theorem whenIdle_idle {s : State} (ws : List CmdWord) (f : State → State) (h : s.phase = .idle) :
    whenIdle ws s f = .next (f s) := by simp [whenIdle, h]

theorem whenIdle_busy {s : State} (ws : List CmdWord) (f : State → State) (h : s.phase ≠ .idle) :
    whenIdle ws s f = .next (s.hold ws) := by simp [whenIdle, h]

/-- Either the command acts, in `IDLE`, or it is held. -/
theorem whenIdle_cases {s t : State} {ws : List CmdWord} {f : State → State} (h : whenIdle ws s f = .next t) :
    (s.phase = .idle ∧ t = f s) ∨ (s.phase ≠ .idle ∧ t = s.hold ws) := by
  by_cases hp : s.phase = .idle
  · rw [whenIdle_idle _ _ hp] at h; cases h; exact .inl ⟨hp, rfl⟩
  · rw [whenIdle_busy _ _ hp] at h; cases h; exact .inr ⟨hp, rfl⟩

/-- The payload port presents as many bytes as were announced. -/
@[simp] theorem presented_length (s : State) (p : List Byte) (n : Nat) : (s.presented p n).length = n := by
  simp only [State.presented, List.length_append, List.length_take, List.length_map, List.length_range]
  omega

/-- With all bytes brought, what is presented is those bytes. -/
theorem presented_of_le {s : State} {p : List Byte} {n : Nat} (h : n ≤ p.length) : s.presented p n = p.take n := by
  simp [State.presented, Nat.sub_eq_zero_of_le h]

/-- With exactly the announced bytes, it is the payload. -/
@[simp] theorem presented_self (s : State) (p : List Byte) : s.presented p p.length = p := by
  rw [presented_of_le (Nat.le_refl _), List.take_length]

/-- The two things the acceptance of `SEND` can do (R82). -/
theorem acceptSend_cases (a b : Half) (p : List Byte) (s : State) :
    (65535 < a.toNat + b.toNat ∧ acceptSend a b p s = s.refuse .illegalOperand) ∨
    (a.toNat + b.toNat ≤ 65535 ∧
      acceptSend a b p s =
        { s with
          txlen := BitVec.ofNat 16 (a.toNat + b.toNat), pay := s.presented p (a.toNat + b.toNat)
          payFresh := if p.length < a.toNat + b.toNat then s.payFresh + 1 else s.payFresh
          tseq := s.seq, seq := s.seq + 1, cks := 0x00, idx := 0, status := .busy, phase := .txHdr }) := by
  unfold acceptSend totalLength lenMax
  dsimp only
  split
  · exact .inl ⟨by omega, rfl⟩
  · exact .inr ⟨by omega, rfl⟩

/-- The two things the acceptance of `AWAIT` can do (R101). -/
theorem acceptAwait_cases (m : Half) (n : Nat) (s : State) :
    (s.cfg.bufCap.val < m.toNat ∧ acceptAwait m n s = s.refuse .illegalOperand) ∨
    (m.toNat ≤ s.cfg.bufCap.val ∧
      acceptAwait m n s =
        { s.forgetBody with
          maxlen := m, timer := n % 2 ^ s.cfg.timerW, respLen := 0, status := .busy, phase := .rxWait }) := by
  unfold acceptAwait
  split
  · exact .inl ⟨by omega, rfl⟩
  · exact .inr ⟨by omega, rfl⟩

/-- The two things the acceptance of `FLUSH` can do (R131). -/
theorem acceptFlush_cases (s : State) :
    (s.rxq = [] ∧ acceptFlush s = { s with fln := 0, status := .ok }) ∨
    (s.rxq ≠ [] ∧ acceptFlush s = { s with fln := s.rxq.length, status := .busy, phase := .fl }) := by
  unfold acceptFlush State.rxCount
  cases h : s.rxq <;> simp

/-- An accepted command leaves the command port with only the later offers (R41, R72). -/
@[simp] theorem acceptSend_cmdPort (a b : Half) (p : List Byte) (s : State) :
    (acceptSend a b p s).cmdPort = s.cmdPort := by
  rcases acceptSend_cases a b p s with ⟨_, h⟩ | ⟨_, h⟩ <;> rw [h] <;> rfl

@[simp] theorem acceptAwait_cmdPort (m : Half) (n : Nat) (s : State) : (acceptAwait m n s).cmdPort = s.cmdPort := by
  rcases acceptAwait_cases m n s with ⟨_, h⟩ | ⟨_, h⟩ <;> rw [h] <;> rfl

@[simp] theorem acceptFlush_cmdPort (s : State) : (acceptFlush s).cmdPort = s.cmdPort := by
  rcases acceptFlush_cases s with ⟨_, h⟩ | ⟨_, h⟩
  all_goals rw [h]

/-! ### The internal transitions -/

/-- A waiting point without its data (R162). -/
theorem expire_cases (s : State) :
    (s.timer = 0 ∧ s.expire = s.fail .timeout) ∨ (0 < s.timer ∧ s.expire = s) := by
  unfold State.expire
  by_cases h : s.timer = 0
  · exact .inl ⟨h, by simp [h]⟩
  · exact .inr ⟨by omega, by simp [h]⟩

theorem stepTxHdr_cases {s t : State} (h : stepTxHdr s = .next t) :
    (s.txReady = false ∧ t = s) ∨
    (s.txReady = true ∧ ∃ b, s.txHeaderByte = some b ∧
      ((s.idx + 1 = 5 ∧ t = { s.emitCounted b with idx := 0, phase := if s.txlen = 0 then .txCks else .txBody }) ∨
        (s.idx + 1 ≠ 5 ∧ t = s.emitCounted b))) := by
  unfold stepTxHdr at h
  split at h
  · next hr =>
    split at h
    · cases h
    · next b hb =>
      refine .inr ⟨hr, b, hb, ?_⟩
      simp only at h
      split at h <;> cases h
      · next h5 => exact .inl ⟨h5, rfl⟩
      · next h5 => exact .inr ⟨h5, rfl⟩
  · next hr => cases h; exact .inl ⟨by simpa using hr, rfl⟩

theorem stepTxBody_cases {s t : State} (h : stepTxBody s = .next t) :
    (s.txReady = false ∧ t = s) ∨
    (s.txReady = true ∧ ∃ b, s.payByte = some b ∧
      ((s.idx + 1 = s.txlen ∧ t = { s.emitCounted b with phase := .txCks }) ∨
        (s.idx + 1 ≠ s.txlen ∧ t = s.emitCounted b))) := by
  unfold stepTxBody at h
  split at h
  · next hr =>
    split at h
    · cases h
    · next b hb =>
      refine .inr ⟨hr, b, hb, ?_⟩
      simp only at h
      split at h <;> cases h
      · next h5 => exact .inl ⟨h5, rfl⟩
      · next h5 => exact .inr ⟨h5, rfl⟩
  · next hr => cases h; exact .inl ⟨by simpa using hr, rfl⟩

theorem stepTxCks_cases {s t : State} (h : stepTxCks s = .next t) :
    (s.txReady = false ∧ t = s) ∨ (s.txReady = true ∧ t = (s.emit s.cks).complete .ok) := by
  unfold stepTxCks at h
  split at h <;> cases h
  · next hr => exact .inr ⟨hr, rfl⟩
  · next hr => exact .inl ⟨by simpa using hr, rfl⟩

theorem stepRxWait_cases {s t : State} (h : stepRxWait s = .next t) :
    (6 ≤ s.rxq.length ∧ t = { s with cks := 0x00, idx := 0, phase := .rxHdr }) ∨
    (s.rxq.length < 6 ∧ t = s.expire) := by
  unfold stepRxWait minFrame State.rxCount at h
  split at h <;> cases h
  · next h6 => exact .inl ⟨h6, rfl⟩
  · next h6 => exact .inr ⟨by omega, rfl⟩

theorem stepRxHdr_cases {s t : State} (h : stepRxHdr s = .next t) :
    (s.rxq = [] ∧ t = s) ∨
    ∃ b rest, s.rxq = b :: rest ∧ s.idx.toNat < 5 ∧
      t = { (s.setRxq rest).accumulate b with
        hdr := s.hdr.latch s.idx.toNat b, idx := s.idx + 1
        phase := if s.idx + 1 = 5 then .rxChk else s.phase } := by
  unfold stepRxHdr at h
  split at h
  · next hq => cases h; exact .inl ⟨hq, rfl⟩
  · next b rest hq =>
    split at h
    · next hi =>
      refine .inr ⟨b, rest, hq, hi, ?_⟩
      simp only at h
      split at h <;> cases h
      · next h5 => rw [if_pos (show s.idx + 1 = 5 from h5)]
      · next h5 => rw [if_neg (show ¬ s.idx + 1 = 5 from h5)]; rfl
    · cases h

/-- The three header checks and their order (R104 to R107). -/
theorem stepRxChk_cases (s : State) :
    (s.hdr.structureOk = false ∧ stepRxChk s = .next (s.fail .malformedHeader)) ∨
    (s.hdr.structureOk = true ∧ s.hdr.sequenceOk s.seq = false ∧ stepRxChk s = .next (s.fail .sequenceMismatch)) ∨
    (s.hdr.structureOk = true ∧ s.hdr.sequenceOk s.seq = true ∧ s.maxlen.toNat < s.hdr.length.toNat ∧
      stepRxChk s = .next ({ s with size := s.hdr.length }.fail .responseTooLarge)) ∨
    (s.hdr.structureOk = true ∧ s.hdr.sequenceOk s.seq = true ∧ s.hdr.length.toNat ≤ s.maxlen.toNat ∧
      stepRxChk s = .next { s with
        size := s.hdr.length, idx := 0, phase := if s.hdr.length = 0 then .rxCks else .rxBody }) := by
  unfold stepRxChk
  cases h1 : s.hdr.structureOk
  · exact .inl ⟨rfl, by simp⟩
  · cases h2 : s.hdr.sequenceOk s.seq
    · exact .inr (.inl ⟨rfl, rfl, by simp⟩)
    · by_cases h3 : s.maxlen < s.hdr.length
      · exact .inr (.inr (.inl ⟨rfl, rfl, h3, by simp [h3]⟩))
      · refine .inr (.inr (.inr ⟨rfl, rfl, Nat.not_lt.mp h3, by simp [h3]⟩))

theorem stepRxBody_cases {s t : State} (h : stepRxBody s = .next t) :
    (s.rxq = [] ∧ t = s.expire) ∨
    ∃ b rest, s.rxq = b :: rest ∧ s.idx.toNat < s.cfg.bufCap.val ∧
      t = { ((s.setRxq rest).writeBody s.idx.toNat b).accumulate b with
        idx := s.idx + 1, phase := if s.idx + 1 = s.size then .rxCks else s.phase } := by
  unfold stepRxBody at h
  split at h
  · next hq => cases h; exact .inl ⟨hq, rfl⟩
  · next b rest hq =>
    split at h
    · next hi =>
      refine .inr ⟨b, rest, hq, hi, ?_⟩
      simp only at h
      split at h <;> cases h
      · next h5 => rw [if_pos (show s.idx + 1 = s.size from h5)]
      · next h5 => rw [if_neg (show ¬ s.idx + 1 = s.size from h5)]; rfl
    · cases h

theorem stepRxCks_cases {s t : State} (h : stepRxCks s = .next t) :
    (s.rxq = [] ∧ t = s.expire) ∨
    (∃ rest, s.rxq = s.cks :: rest ∧ t = { s.setRxq rest with respLen := s.size }.complete .ok) ∨
    ∃ b rest, s.rxq = b :: rest ∧ b ≠ s.cks ∧ t = (s.setRxq rest).fail .checksumMismatch := by
  unfold stepRxCks at h
  split at h
  · next hq => cases h; exact .inl ⟨hq, rfl⟩
  · next b rest hq =>
    split at h <;> cases h
    · next hb => exact .inr (.inl ⟨rest, by rw [hq, hb], rfl⟩)
    · next hb => exact .inr (.inr ⟨b, rest, hq, hb, rfl⟩)

theorem stepFl_cases {s t : State} (h : stepFl s = .next t) :
    (s.rxq = [] ∧ t = s) ∨
    ∃ b rest, s.rxq = b :: rest ∧
      ((s.fln - 1 = 0 ∧ t = { s.setRxq rest with fln := s.fln - 1 }.complete .ok) ∨
        (s.fln - 1 ≠ 0 ∧ t = { s.setRxq rest with fln := s.fln - 1 })) := by
  unfold stepFl at h
  split at h
  · next hq => cases h; exact .inl ⟨hq, rfl⟩
  · next b rest hq =>
    refine .inr ⟨b, rest, hq, ?_⟩
    simp only at h
    split at h <;> cases h
    · next h0 => exact .inl ⟨h0, rfl⟩
    · next h0 => exact .inr ⟨h0, rfl⟩

end Sys2Proof.Machine
end

