-- ==== Sys2Proof/Laws/PerInstr.lean ====
section
/-! SUPPORT. Laws of operations as syntax, one lemma per constructor. -/

namespace Sys2Proof.Laws.Port

/-- A command word drives the payload port for `SEND` only, `cmd_b` for `SEND` only, `cmd_t` for `AWAIT` only and
`cmd_a` for these two (R71). -/
def onlyUsedInputs (w : CmdWord) : Prop :=
  (w.op ≠ 1 → w.payload = [] ∧ w.b = 0) ∧ (w.op ≠ 2 → w.t = 0) ∧ (w.op ≠ 1 → w.op ≠ 2 → w.a = 0)

/-- An operation is issued on one port, and its words drive only the inputs its encoding uses (R60, R71, R74, R76). -/
def Statement (i : Instr) : Prop :=
  match encode i with
  | .command ws => ws ≠ [] ∧ ∀ w ∈ ws, onlyUsedInputs w
  | .read w => w.sel ≠ 3 → w.addr = 0
  | .wire bytes => 6 ≤ bytes.length ∧ bytes.head? = some 0x1B

theorem onlyUsedInputs_plain (op : BitVec 4) : onlyUsedInputs (plainWord op) :=
  ⟨fun _ => ⟨rfl, rfl⟩, fun _ => rfl, fun _ _ => rfl⟩

theorem onlyUsedInputs_send (cpLen dataLen : Half) (payload : List Byte) :
    onlyUsedInputs (sendWord cpLen dataLen payload) :=
  ⟨fun h => absurd rfl h, fun _ => rfl, fun h => absurd rfl h⟩

theorem onlyUsedInputs_await (maxlen : Half) (timeout : Nat) : onlyUsedInputs (awaitWord maxlen timeout) :=
  ⟨fun _ => ⟨rfl, rfl⟩, fun h => absurd rfl h, fun _ h => absurd rfl h⟩

/-- A command of one word. -/
theorem one {w : CmdWord} (h : onlyUsedInputs w) : [w] ≠ [] ∧ ∀ v ∈ [w], onlyUsedInputs v :=
  ⟨nofun, fun _ hv => List.mem_singleton.mp hv ▸ h⟩

theorem frameV2Header (sequence : Byte) (length : Half) (body : List Byte) (checksum : Byte) :
    Statement (.frameV2Header sequence length body checksum) := by
  simp [Statement, encode, wireBytes, headerBytes, startByte]

theorem nop : Statement .nop := one (onlyUsedInputs_plain _)

theorem send (cpLen dataLen : Half) (payload : List Byte) : Statement (.send cpLen dataLen payload) :=
  one (onlyUsedInputs_send _ _ _)

theorem await (maxlen : Half) (timeout : Nat) : Statement (.await maxlen timeout) := one (onlyUsedInputs_await _ _)

theorem flush : Statement .flush := one (onlyUsedInputs_plain _)
theorem reserved4 : Statement .reserved4 := one (onlyUsedInputs_plain _)
theorem reserved5 : Statement .reserved5 := one (onlyUsedInputs_plain _)
theorem reserved6 : Statement .reserved6 := one (onlyUsedInputs_plain _)
theorem reserved7 : Statement .reserved7 := one (onlyUsedInputs_plain _)
theorem reserved8 : Statement .reserved8 := one (onlyUsedInputs_plain _)
theorem reserved9 : Statement .reserved9 := one (onlyUsedInputs_plain _)
theorem reservedA : Statement .reservedA := one (onlyUsedInputs_plain _)
theorem reservedB : Statement .reservedB := one (onlyUsedInputs_plain _)
theorem reservedC : Statement .reservedC := one (onlyUsedInputs_plain _)
theorem reservedD : Statement .reservedD := one (onlyUsedInputs_plain _)
theorem reservedE : Statement .reservedE := one (onlyUsedInputs_plain _)
theorem reservedF : Statement .reservedF := one (onlyUsedInputs_plain _)

theorem rdseq : Statement .rdseq := fun _ => rfl
theorem rdstat : Statement .rdstat := fun _ => rfl
theorem rdlen : Statement .rdlen := fun _ => rfl
theorem rdbody (i : Half) : Statement (.rdbody i) := fun h => absurd rfl h

theorem xact (cpLen dataLen : Half) (payload : List Byte) (maxlen : Half) (timeout : Nat) :
    Statement (.xact cpLen dataLen payload maxlen timeout) := by
  refine ⟨nofun, fun w hw => ?_⟩
  rcases List.mem_pair.mp hw with rfl | rfl
  · exact onlyUsedInputs_send _ _ _
  · exact onlyUsedInputs_await _ _

theorem synctry (cpLen : Half) (payload : List Byte) (maxlen : Half) (timeout : Nat) :
    Statement (.synctry cpLen payload maxlen timeout) := by
  refine ⟨nofun, fun w hw => ?_⟩
  rcases List.mem_cons.mp hw with rfl | hw
  · exact onlyUsedInputs_plain _
  · rcases List.mem_pair.mp hw with rfl | rfl
    · exact onlyUsedInputs_send _ _ _
    · exact onlyUsedInputs_await _ _

end Sys2Proof.Laws.Port
end

