-- ==== Sys2Proof/Laws/Step.lean ====
section
/-! SUPPORT. What `exec`, a turn, a step and several steps can do, said once. -/

namespace Sys2Proof.Machine

/-! ### `exec` -/

/-- Every operation answers a next state, in every state: no operation stops. -/
theorem exec_total (i : Instr) (s : State) : ∃ t, exec i s = .next t := by
  have hw (ws : List CmdWord) (f : State → State) : ∃ t, whenIdle ws s f = .next t := by
    by_cases h : s.phase = .idle
    · exact ⟨_, whenIdle_idle ws f h⟩
    · exact ⟨_, whenIdle_busy ws f h⟩
  cases i <;> first | exact hw _ _ | exact ⟨_, rfl⟩

/-- What an accepted command can do to the state, in `IDLE`. -/
inductive Accepted (s : State) : State → Prop where
  | nothing : Accepted s s
  | refused (c : Code) : c = .illegalCommand ∨ c = .illegalOperand → Accepted s (s.refuse c)
  | send (a b : Half) (p : List Byte) : Accepted s (acceptSend a b p s)
  | await (m : Half) (n : Nat) : Accepted s (acceptAwait m n s)
  | flush : Accepted s (acceptFlush s)

/-- Everything a command or pseudo-operation can do: stay at the command port with its words, or be accepted, a
pseudo-operation after putting its later words back to the port. -/
theorem exec_command_cases {i : Instr} {ws : List CmdWord} {s t : State} (hi : encode i = .command ws)
    (h : exec i s = .next t) :
    (s.phase ≠ .idle ∧ t = s.hold ws) ∨
      (s.phase = .idle ∧ ∃ offers, Accepted { s with cmdPort := offers } t) := by
  have hw {ws' : List CmdWord} {f : State → State} (hws : ws' = ws) (h : whenIdle ws' s f = .next t)
      (hf : ∃ offers, Accepted { s with cmdPort := offers } (f s)) :
      (s.phase ≠ .idle ∧ t = s.hold ws) ∨
        (s.phase = .idle ∧ ∃ offers, Accepted { s with cmdPort := offers } t) := by
    rcases whenIdle_cases h with ⟨hp, rfl⟩ | ⟨hp, rfl⟩
    · exact .inr ⟨hp, hf⟩
    · exact .inl ⟨hp, hws ▸ rfl⟩
  cases i <;> simp only [encode, Issue.command.injEq, reduceCtorEq] at hi
  case nop => exact hw hi h ⟨s.cmdPort, .nothing⟩
  case send a b p => exact hw hi h ⟨s.cmdPort, .send a b p⟩
  case await m n => exact hw hi h ⟨s.cmdPort, .await m n⟩
  case flush => exact hw hi h ⟨s.cmdPort, .flush⟩
  case xact a b p m n => exact hw hi h ⟨[awaitWord m n] :: s.cmdPort, .send a b p⟩
  case synctry a p m n =>
    exact hw hi h ⟨[sendWord a 0 p] :: [awaitWord m n] :: s.cmdPort, .flush⟩
  all_goals exact hw hi h ⟨s.cmdPort, .refused .illegalCommand (.inl rfl)⟩

/-! ### Turns and steps -/

/-- A read only answers. -/
theorem readTurn_cases {w : ReadWord} {s t : State} (h : readTurn w s = .next t) : ∃ d, t = s.answer d := by
  unfold readTurn decodeRead at h
  split at h <;> (cases h; exact ⟨_, rfl⟩)

theorem readTurn_total (w : ReadWord) (s : State) : ∃ d, readTurn w s = .next (s.answer d) := by
  unfold readTurn decodeRead
  split <;> exact ⟨_, rfl⟩

/-- The frame decoded from a byte string is issued as that byte string (R60). -/
theorem encode_of_decodeWire {f : List Byte} {i : Instr} (h : decodeWire f = .ok i) :
    encode i = .wire f ∧ ∃ q l b c, i = .frameV2Header q l b c ∧ wireBytes q l b c = f := by
  unfold decodeWire at h
  split at h
  · next start q hi lo token rest =>
    split at h
    · cases h
    · next h0 =>
      split at h
      · cases h
      · next h4 =>
        split at h
        · cases h
        · next hl =>
          cases h
          have hne : rest ≠ [] := by rintro rfl; simp at hl
          have hb : wireBytes q (joinBytes hi lo) rest.dropLast (rest.getLastD 0) = start :: q :: hi :: lo :: token :: rest := by
            have h0' : start = startByte := by simpa using h0
            have h4' : token = tokenByte := by simpa using h4
            have hr : rest.dropLast ++ [rest.getLastD 0] = rest := by
              rw [List.getLastD_eq_getLast?, List.getLast?_eq_some_getLast hne]
              exact List.dropLast_append_getLast hne
            simp only [wireBytes, headerBytes, h0', h4', highByte_join, lowByte_join, List.cons_append, List.nil_append, hr]
          exact ⟨by simp only [encode, hb], _, _, _, _, rfl, hb⟩
  · cases h

/-- Bytes on the line arrive, whether they form a frame or not. -/
theorem wireTurn_eq (bytes : List Byte) (s : State) : wireTurn bytes s = .next (s.arriveAll bytes) := by
  unfold wireTurn
  split
  · next op hd =>
    obtain ⟨_, q, l, b, c, rfl, hb⟩ := encode_of_decodeWire hd
    simp only [exec, execFrameV2Header, hb]
  · rfl

/-- What is read from command words is a command or a pseudo-operation. -/
theorem encode_of_decodeCommands {ws : List CmdWord} {i : Instr} (h : decodeCommands ws = .ok i) :
    ∃ ws', encode i = .command ws' := by
  unfold decodeCommands at h
  split at h
  · cases h
  · cases h
    unfold decodeCommand
    split <;> exact ⟨_, rfl⟩
  · split at h <;> cases h
    exact ⟨_, rfl⟩
  · split at h <;> cases h
    exact ⟨_, rfl⟩
  · cases h

/-- Everything the turn of the command port can do. -/
theorem commandTurn_cases {s t : State} (h : commandTurn s = .next t) :
    (s.cmdPort = [] ∧ t = s) ∨
    (s.phase ≠ .idle ∧ ∃ offers, t = { s with cmdPort := offers }) ∨
    (s.phase = .idle ∧ ∃ offers, Accepted { s with cmdPort := offers } t) := by
  unfold commandTurn at h
  split at h
  · next hc => cases h; exact .inl ⟨hc, rfl⟩
  · next ws later hc =>
    split at h
    · next op hd =>
      obtain ⟨ws', he⟩ := encode_of_decodeCommands hd
      rcases exec_command_cases he h with ⟨hp, rfl⟩ | ⟨hp, offers, ha⟩
      · exact .inr (.inl ⟨hp, _, rfl⟩)
      · exact .inr (.inr ⟨hp, offers, ha⟩)
    · cases h

/-- The state a turn acts on: the agenda without the turn taken. -/
def State.afterTurn (s : State) : State := { s with agenda := s.agenda.tail }

/-- A step is the turn of whoever is next. -/
theorem step_eq (s : State) : step s = takeTurn s.turn s.afterTurn := by
  unfold step State.turn State.afterTurn
  cases h : s.agenda with
  | nil => simp only [List.headD_nil, List.tail_nil]; rw [← h]
  | cons t later => rfl

/-- Everything a step can do, by whose turn it is. -/
theorem step_cases {s t : State} (h : step s = .next t) :
    (s.turn = .block ∧ internal s.afterTurn = .next t) ∨
    (s.turn = .command ∧ commandTurn s.afterTurn = .next t) ∨
    (∃ w d, s.turn = .read w ∧ t = s.afterTurn.answer d) ∨
    (∃ bs, (s.turn = .wire bs ∨ ∃ b, s.turn = .arrive b ∧ bs = [b]) ∧ t = s.afterTurn.arriveAll bs) ∨
    (s.turn = .tick ∧ t = tickEvent s.afterTurn) ∨
    (s.turn = .rst ∧ t = rstEvent s.afterTurn) ∨
    (∃ r, s.turn = .txReady r ∧ t = { s.afterTurn with txReady := r }) := by
  rw [step_eq] at h
  cases ht : s.turn with
  | block => rw [ht] at h; exact .inl ⟨rfl, h⟩
  | command => rw [ht] at h; exact .inr (.inl ⟨rfl, h⟩)
  | read w =>
    rw [ht] at h
    obtain ⟨d, hd⟩ := readTurn_cases h
    exact .inr (.inr (.inl ⟨w, d, rfl, hd⟩))
  | wire bs =>
    rw [ht] at h
    simp only [takeTurn, wireTurn_eq] at h
    cases h
    exact .inr (.inr (.inr (.inl ⟨bs, .inl rfl, rfl⟩)))
  | arrive b =>
    rw [ht] at h; cases h
    exact .inr (.inr (.inr (.inl ⟨[b], .inr ⟨b, rfl, rfl⟩, rfl⟩)))
  | tick => rw [ht] at h; cases h; exact .inr (.inr (.inr (.inr (.inl ⟨rfl, rfl⟩))))
  | rst => rw [ht] at h; cases h; exact .inr (.inr (.inr (.inr (.inr (.inl ⟨rfl, rfl⟩)))))
  | txReady r => rw [ht] at h; cases h; exact .inr (.inr (.inr (.inr (.inr (.inr ⟨r, rfl, rfl⟩)))))

/-! ### Several steps -/

theorem steps_succ {s t : State} (k : Nat) (h : step s = .next t) : steps (k + 1) s = steps k t := by
  simp only [steps, h]

/-- Runs compose. -/
theorem steps_add {s t : State} (j k : Nat) (h : steps j s = .next t) : steps (j + k) s = steps k t := by
  induction j generalizing s with
  | zero => cases h; rw [Nat.zero_add]
  | succ j ih =>
    rw [Nat.succ_add]
    simp only [steps] at h ⊢
    split at h
    · next u hu => exact ih h
    · cases h
    · cases h

/-- `steps` is the host's run of the machine. -/
theorem steps_eq_run (k : Nat) (s : State) : steps k s = Host.Core.run Sys2Proof.core k s := by
  induction k generalizing s with
  | zero => rfl
  | succ k ih =>
    cases h : step s with
    | next t => rw [steps_succ k h, ih]; exact (by simp only [Host.Core.run, show Sys2Proof.core.step s = _ from h]; rfl)
    | fault r => simp only [steps, h]; exact (by simp only [Host.Core.run, show Sys2Proof.core.step s = _ from h]; rfl)
    | refused r => simp only [steps, h]; exact (by simp only [Host.Core.run, show Sys2Proof.core.step s = _ from h]; rfl)

end Sys2Proof.Machine
end

