-- ==== Sys2Proof/Tests/Slice0.lean ====
section
/-! SUPPORT. Tests and witnesses. The expected values are the vectors of spec/95_test_vectors.md (their ids stand in the
docstrings) or are read off the rule named; the words are written out from spec/30_encoding.md R60, R71, R74. -/

open Sys2Proof Sys2Proof.Machine

namespace Sys2Proof.Tests

/-! ### Well-formedness: an ill-formed term for each check -/

theorem test_wf_frame_body_shorter_than_length_field :
    (Instr.frameV2Header 0x00 2 [0x01] 0x16).wf Config.suggested = false := by decide

theorem test_wf_send_payload_longer_than_announced :
    (Instr.send 1 0 [0x01, 0x02]).wf Config.suggested = false := by decide

theorem test_wf_await_timeout_too_wide :
    (Instr.await 16 4294967296).wf Config.suggested = false := by decide

theorem test_wf_xact_payload_missing :
    (Instr.xact 1 1 [0x01] 16 5).wf Config.suggested = false := by decide

theorem test_wf_xact_timeout_too_wide :
    (Instr.xact 1 0 [0x01] 16 4294967296).wf Config.suggested = false := by decide

theorem test_wf_synctry_payload_missing :
    (Instr.synctry 1 [] 16 5).wf Config.suggested = false := by decide

theorem test_wf_synctry_timeout_too_wide :
    (Instr.synctry 1 [0x01] 16 4294967296).wf Config.suggested = false := by decide

theorem test_wf_accepts : (Instr.xact 1 1 [0x01, 0x02] 16 4294967295).wf Config.suggested = true
    ∧ (Instr.frameV2Header 0x00 2 [0x01, 0x00] 0x16).wf Config.suggested = true
    ∧ (Instr.send 65535 1 []).wf Config.suggested = true := by decide

/-- R6: `TIMER_W` at least 1, `RXQ_CAP` at least 6 or unbounded. -/
theorem test_config_wf : Config.suggested.wf = true
    ∧ { Config.suggested with timerW := 0 }.wf = false
    ∧ { Config.suggested with rxqCap := some 5 }.wf = false
    ∧ { Config.suggested with rxqCap := some 6 }.wf = true := by decide

/-! ### Decoding: a word written out for every constructor -/

/-- A command word with every operand input driven (R71). -/
def word (op : BitVec 4) : CmdWord := { op := op, a := 0x000A, b := 0x0100, t := 100, payload := [0xAA] }

def decoded (ws : List CmdWord) : Option Instr := (decode (.command ws)).toOption

theorem test_decode_nop : decoded [word 0b0000] = some .nop := by decide
theorem test_decode_send : decoded [word 0b0001] = some (.send 0x000A 0x0100 [0xAA]) := by decide
theorem test_decode_await : decoded [word 0b0010] = some (.await 0x000A 100) := by decide
theorem test_decode_flush : decoded [word 0b0011] = some .flush := by decide
theorem test_decode_reserved4 : decoded [word 0b0100] = some .reserved4 := by decide
theorem test_decode_reserved5 : decoded [word 0b0101] = some .reserved5 := by decide
theorem test_decode_reserved6 : decoded [word 0b0110] = some .reserved6 := by decide
theorem test_decode_reserved7 : decoded [word 0b0111] = some .reserved7 := by decide
theorem test_decode_reserved8 : decoded [word 0b1000] = some .reserved8 := by decide
theorem test_decode_reserved9 : decoded [word 0b1001] = some .reserved9 := by decide
theorem test_decode_reservedA : decoded [word 0b1010] = some .reservedA := by decide
theorem test_decode_reservedB : decoded [word 0b1011] = some .reservedB := by decide
theorem test_decode_reservedC : decoded [word 0b1100] = some .reservedC := by decide
theorem test_decode_reservedD : decoded [word 0b1101] = some .reservedD := by decide
theorem test_decode_reservedE : decoded [word 0b1110] = some .reservedE := by decide
theorem test_decode_reservedF : decoded [word 0b1111] = some .reservedF := by decide

/-- R76: `XACT` is `SEND` then `AWAIT`. -/
theorem test_decode_xact :
    decoded [word 0b0001, word 0b0010] = some (.xact 0x000A 0x0100 [0xAA] 0x000A 100) := by decide

/-- R76: `SYNCTRY` is `FLUSH` then `SEND [cp]` then `AWAIT`. -/
theorem test_decode_synctry : decoded [word 0b0011, { word 0b0001 with b := 0 }, word 0b0010]
    = some (.synctry 0x000A [0xAA] 0x000A 100) := by decide

/-- No word, and words that are no pseudo-operation. -/
theorem test_decode_rejects : decode (.command []) = .error .noWord
    ∧ decode (.command [word 0b0010, word 0b0001]) = .error .notAPseudoOperation := ⟨rfl, rfl⟩

def decodedRead (sel : BitVec 2) (addr : Half) : Option Instr := (decode (.read { sel := sel, addr := addr })).toOption

theorem test_decode_rdseq : decodedRead 0b00 7 = some .rdseq := by decide
theorem test_decode_rdstat : decodedRead 0b01 7 = some .rdstat := by decide
theorem test_decode_rdlen : decodedRead 0b10 7 = some .rdlen := by decide
theorem test_decode_rdbody : decodedRead 0b11 7 = some (.rdbody 7) := by decide

/-- The frame of vector E1, bit by bit. -/
theorem test_decode_frame : (decode (.wire [0b00011011, 0b00000000, 0b00000000, 0b00000001, 0b00001110,
    0b00000001, 0b00010101])).toOption = some (.frameV2Header 0x00 1 [0x01] 0x15) := by decide

/-- A wrong start byte, a wrong token, a length field that is not the body's, too few bytes (R61, R63, R64, R67). -/
theorem test_decode_frame_rejects : decode (.wire [0x1A, 0x00, 0x00, 0x00, 0x0E, 0x15]) = .error .badStart
    ∧ decode (.wire [0x1B, 0x00, 0x00, 0x00, 0x0F, 0x15]) = .error .badToken
    ∧ decode (.wire [0x1B, 0x00, 0x00, 0x01, 0x0E, 0x15]) = .error .badLength
    ∧ decode (.wire [0x1B, 0x00, 0x00, 0x00]) = .error .shortHeader := ⟨rfl, rfl, rfl, rfl⟩

/-- The header pattern of R60 with sequence 0x2A and length 2: the length is high byte first. -/
theorem test_decode_table_header : decodeTableWord 40 0x1B2A00020E = some (.frameV2Header 0x2A 2 [0x00, 0x00] 0x00) := by
  decide

/-- Vectors E3, E7 and E10 of `EncodeV2`. -/
theorem test_encodeV2 : encodeV2 0xFF [0x10, 0xC8, 0x64] [] = [0x1B, 0xFF, 0x00, 0x03, 0x0E, 0x10, 0xC8, 0x64, 0x55]
    ∧ encodeV2 0x1B [0x1B] [0x0E] = [0x1B, 0x1B, 0x00, 0x02, 0x0E, 0x1B, 0x0E, 0x19]
    ∧ encodeV2 0xFF [] [] = [0x1B, 0xFF, 0x00, 0x00, 0x0E, 0xEA] := by decide

/-! ### States and what is looked at -/

def nextOf (o : Host.Outcome State Fault Refusal) : Option State :=
  match o with
  | .next t => some t
  | .fault _ => none
  | .refused _ => none

/-- The same machine with a buffer of `cap` bytes. -/
def small (cap : Fin 65536) : Config := { Config.suggested with bufCap := cap }

/-- In `TX_HDR`, about to emit header byte `i` of a frame with body `pay` (R83). -/
def txHdrState (i : Half) (pay : List Byte) : State :=
  { State.reset with
    phase := .txHdr, status := .busy, idx := i, pay := pay, txlen := BitVec.ofNat 16 pay.length, seq := 0x01
    txlog := (encodeV2 0x00 pay []).take i.toNat, cks := xorAll ((encodeV2 0x00 pay []).take i.toNat) }

/-- In `TX_BODY`, about to emit byte `i` of a two-byte body (R84). -/
def txBodyState (i : Half) : State :=
  { State.reset with
    phase := .txBody, status := .busy, idx := i, pay := [0x01, 0x02], txlen := 2, seq := 0x01
    txlog := [0x1B, 0x00, 0x00, 0x02, 0x0E, 0x01].take (5 + i.toNat)
    cks := xorAll ([0x1B, 0x00, 0x00, 0x02, 0x0E, 0x01].take (5 + i.toNat)) }

/-- In `TX_CKS` after the five header bytes of an empty frame (R85, vector E2). -/
def txCksState : State :=
  { State.reset with phase := .txCks, status := .busy, seq := 0x01, txlog := [0x1B, 0x00, 0x00, 0x00, 0x0E], cks := 0x15 }

/-- In `RX_WAIT` with `q` buffered (R102). -/
def rxWaitState (timer : Nat) (q : List Byte) : State :=
  { State.reset with phase := .rxWait, status := .busy, seq := 0x01, maxlen := 16, timer := timer, rxq := q }

/-- In `RX_HDR` about to latch header byte `i` of the frame of vector A1 (R103). -/
def rxHdrState (i : Half) : State :=
  { State.reset with
    phase := .rxHdr, status := .busy, seq := 0x01, maxlen := 16, idx := i
    rxq := [0x1B, 0x00, 0x00, 0x02, 0x0E, 0x01, 0x00, 0x16].drop i.toNat }

/-- In `RX_CHK` with these five header bytes (R104). -/
def rxChkState (b0 b1 b2 b3 b4 : Byte) (maxlen : Half) : State :=
  { State.reset with
    phase := .rxChk, status := .busy, seq := 0x05, maxlen := maxlen, rxq := [0x99]
    hdr := { start := b0, sequence := b1, lenHi := b2, lenLo := b3, token := b4 } }

/-- In `RX_BODY` of a two-byte buffer, `i` bytes received of two (R108). -/
def rxBodyState (i : Half) (timer : Nat) (q : List Byte) : State :=
  { State.reset with
    cfg := small 2, phase := .rxBody, status := .busy, seq := 0x01, maxlen := 2, size := 2, idx := i, timer := timer
    body := [(0, 0x01), (1, 0x00)].take i.toNat, rxq := q, cks := 0x17 }

/-- In `RX_CKS` with the body `01 00` of vector A1 received (R109). -/
def rxCksState (timer : Nat) (q : List Byte) : State :=
  { State.reset with
    phase := .rxCks, status := .busy, seq := 0x01, maxlen := 16, size := 2, timer := timer
    body := [(0, 0x01), (1, 0x00)], rxq := q, cks := 0x16 }

/-- After vector A1: `OK` with the body `01 00` readable (Q3). -/
def afterA1 : State :=
  { State.reset with seq := 0x01, maxlen := 16, size := 2, respLen := 2, body := [(0, 0x01), (1, 0x00)], cks := 0x16 }

/-- In `FL` with `n` bytes still to discard (R132). -/
def flState (n : Nat) (q : List Byte) : State :=
  { State.reset with phase := .fl, status := .busy, fln := n, rxq := q }

/-! ### One step of each operation -/

/-- R133, N1. -/
theorem test_nop : nextOf (exec .nop { State.reset with status := .checksumMismatch })
    = some { State.reset with status := .checksumMismatch } := by decide

/-- R82: the acceptance of E1. -/
theorem test_send : (nextOf (exec (.send 1 0 [0x01]) State.reset)).map
    (fun t => (t.seq, t.tseq, t.txlen, t.pay, t.status)) = some (0x01, 0x00, 1, [0x01], .busy) := by
  decide

/-- R41, R82: a `SEND` of two bytes with one brought is accepted in `IDLE` and has a body of two; the first is the one
brought (log 12). -/
theorem test_send_short : (nextOf (exec (.send 1 1 [0x01]) State.reset)).map
    (fun t => (t.phase, t.txlen, t.pay.length, t.pay.head?)) = some (.txHdr, 2, 2, some 0x01) := by decide

/-- X1: refused, `SEQ` and `TXLOG` unchanged. -/
theorem test_send_refused : nextOf (exec (.send 65535 1 []) State.reset)
    = some { State.reset with status := .illegalOperand } := by decide

/-- R101: the acceptance of A1. -/
theorem test_await : (nextOf (exec (.await 16 100) afterA1)).map
    (fun t => (t.phase, t.maxlen, t.timer, t.respLen, t.status, t.seq)) = some (.rxWait, 16, 100, 0, .busy, 0x01) := by
  decide

/-- X5: `AWAIT 301, 1` with a buffer of 300 is refused and the old body stays readable. -/
theorem test_await_refused : nextOf (exec (.await 301 1) { afterA1 with cfg := small 300 })
    = some { afterA1 with cfg := small 300, status := .illegalOperand } := by decide

/-- F1. -/
theorem test_flush : (nextOf (exec .flush { State.reset with rxq := [0x1B, 0x00, 0x00] })).map
    (fun t => (t.phase, t.fln, t.status, t.rxq.length)) = some (.fl, 3, .busy, 3) := by decide

/-- F2: an empty queue completes at once, never `Busy`. -/
theorem test_flush_empty : (nextOf (exec .flush { State.reset with status := .timeout })).map
    (fun t => (t.phase, t.status)) = some (.idle, .ok) := by decide

/-- I1, for each reserved opcode. -/
theorem test_reserved : ∀ i ∈ [Instr.reserved4, .reserved5, .reserved6, .reserved7, .reserved8, .reserved9,
    .reservedA, .reservedB, .reservedC, .reservedD, .reservedE, .reservedF],
    nextOf (exec i { State.reset with seq := 0x07 }) = some { State.reset with seq := 0x07, status := .illegalCommand } := by
  decide

/-- The numbers of R21 for the two refusal codes and `Busy`, as `RDSTAT` reads them. -/
theorem test_rdstat : [{ State.reset with status := .illegalCommand }, { State.reset with status := .illegalOperand },
    txHdrState 0 []].map (fun s => (nextOf (exec .rdstat s)).bind (·.rdOut)) = [some 0x0009, some 0x000A, some 0x008F] := by
  decide

/-- Q2: `SEQ` is already incremented in `TX_HDR`. -/
theorem test_rdseq : (nextOf (exec .rdseq (txHdrState 0 [0x01]))).bind (·.rdOut) = some 0x0001 := by decide

/-- Q3. -/
theorem test_rdlen : (nextOf (exec .rdlen afterA1)).bind (·.rdOut) = some 0x0002 := by decide

/-- Q3: the two readable bytes, and the two refused reads. -/
theorem test_rdbody : [0, 1, 2, 65535].map (fun i => (nextOf (exec (.rdbody i) afterA1)).bind (·.rdOut))
    = [some 0x0001, some 0x0000, none, none] := by decide

/-- R24: the bytes of a frame join the queue behind what is there, header first, checksum last. -/
theorem test_frame : (nextOf (exec (.frameV2Header 0x00 2 [0x01, 0x00] 0x16) { State.reset with rxq := [0x55] })).map
    (·.rxq) = some [0x55, 0x1B, 0x00, 0x00, 0x02, 0x0E, 0x01, 0x00, 0x16] := by decide

/-- R24: one byte arrives, a string that is no frame arrives, a byte arrives at a full queue (log 16). -/
theorem test_arrive : (nextOf (takeTurn (.arrive 0x09) { State.reset with rxq := [0x55] })).map (·.rxq) = some [0x55, 0x09]
    ∧ (nextOf (takeTurn (.wire [0x1B, 0x00]) { State.reset with rxq := [0x55] })).map (·.rxq) = some [0x55, 0x1B, 0x00]
    ∧ (nextOf (takeTurn (.arrive 0x09) { State.reset with
        cfg := { Config.suggested with rxqCap := some 6 }, rxq := [1, 2, 3, 4, 5, 6] })).map (·.rxq) = some [1, 2, 3, 4, 5, 6] := by
  decide

/-- R76: `XACT` starts its `SEND`, its `AWAIT` offered next. -/
theorem test_xact : (nextOf (exec (.xact 1 0 [0x01] 32 5) State.reset)).map
    (fun t => (t.phase, t.pay, t.cmdPort.map decoded)) = some (.txHdr, [0x01], [some (.await 32 5)]) := by decide

/-- R76, P2: `SYNCTRY` flushes first; `SEND` and `AWAIT` are offered next. -/
theorem test_synctry : (nextOf (exec (.synctry 1 [0x01] 32 5) { State.reset with rxq := [0x55] })).map
    (fun t => (t.phase, t.fln, t.cmdPort.map decoded)) = some (.fl, 1, [some (.send 1 0 [0x01]), some (.await 32 5)]) := by
  decide

/-- R72: a `SEND` offered during an `AWAIT` stays at the port. -/
theorem test_send_held : (nextOf (exec (.send 1 0 [0x01]) (rxWaitState 5 []))).map
    (fun t => (t.phase, t.seq, t.status, t.cmdPort.map decoded)) = some (.rxWait, 0x01, .busy, [some (.send 1 0 [0x01])]) := by
  decide

/-! ### One internal transition of each phase -/

/-- E1, steps 1 to 5: each byte emitted with `CKS`, `IDX` and `PHASE` after it. -/
theorem test_tx_hdr : [0, 1, 2, 3, 4].map (fun i => (nextOf (internal (txHdrState i [0x01]))).map
      fun t => (t.txlog.getLastD 0, t.cks, t.idx, t.phase))
    = [some (0x1B, 0x1B, 1, .txHdr), some (0x00, 0x1B, 2, .txHdr), some (0x00, 0x1B, 3, .txHdr),
      some (0x01, 0x1A, 4, .txHdr), some (0x0E, 0x14, 0, .txBody)] := by decide

/-- E10, step 5: an empty body goes straight to `TX_CKS`. -/
theorem test_tx_hdr_empty : (nextOf (internal (txHdrState 4 []))).map (·.phase) = some .txCks := by decide

/-- E2, step 6. -/
theorem test_tx_cks : (nextOf (internal txCksState)).map (fun t => (t.txlog, t.status, t.phase))
    = some ([0x1B, 0x00, 0x00, 0x00, 0x0E, 0x15], .ok, .idle) := by decide

/-- A1 and A11: six buffered bytes start the header, five do not; X6: an expired timer then fails. -/
theorem test_rx_wait : [rxWaitState 0 [0x1B, 0x00, 0x00, 0x02, 0x0E, 0x01], rxWaitState 1 [0x1B, 0x00, 0x00, 0x02, 0x0E],
      rxWaitState 0 [0x1B, 0x00, 0x00, 0x02, 0x0E]].map (fun s => (nextOf (internal s)).map fun t => (t.phase, t.status, t.rxq.length))
    = [some (.rxHdr, .busy, 6), some (.rxWait, .busy, 5), some (.idle, .timeout, 5)] := by decide

/-- A1, steps 2 and 6. -/
theorem test_rx_hdr : [0, 4].map (fun i => (nextOf (internal (rxHdrState i))).map
      fun t => (t.phase, t.idx, t.hdr.start, t.hdr.token, t.rxq.length))
    = [some (.rxHdr, 1, 0x1B, 0x00, 7), some (.rxChk, 5, 0x00, 0x0E, 3)] := by decide

/-- A14, A15, A16 and the boundary of A4: structure, then sequence, then size; a size of `maxlen` passes. -/
theorem test_rx_chk : [rxChkState 0x00 0x05 0xFF 0xFF 0x00 1, rxChkState 0x1B 0x05 0xFF 0xFF 0x0E 1,
      rxChkState 0x1B 0x04 0xFF 0xFF 0x0E 1, rxChkState 0x1B 0x04 0x01 0x0A 0x0E 266, rxChkState 0x1B 0x04 0x00 0x00 0x0E 0].map
      (fun s => (nextOf (internal s)).map fun t => (t.phase, t.status, t.rxq))
    = [some (.idle, .malformedHeader, [0x99]), some (.idle, .sequenceMismatch, [0x99]),
      some (.idle, .responseTooLarge, [0x99]), some (.rxBody, .busy, [0x99]), some (.rxCks, .busy, [0x99])] := by decide

/-- A1, the last body byte: stored at `BODY[1]`, and on to `RX_CKS`. -/
theorem test_rx_body : (nextOf (internal (rxBodyState 1 0 [0x00, 0x16]))).map
    (fun t => (t.phase, t.bodyByte 1, t.bodyByte 0, t.rxq)) = some (.rxCks, 0x00, 0x01, [0x16]) := by decide

/-- A1, A9, A10: the checksum byte is right, is wrong, never comes. -/
theorem test_rx_cks : [rxCksState 0 [0x16, 0x77], rxCksState 0 [0x17], rxCksState 0 []].map
      (fun s => (nextOf (internal s)).map fun t => (t.phase, t.status, t.respLen, t.rxq))
    = [some (.idle, .ok, 2, [0x77]), some (.idle, .checksumMismatch, 0, []), some (.idle, .timeout, 0, [])] := by decide

/-- F1, F3: a discarded byte; the last one completes, the byte behind it survives. -/
theorem test_fl : [flState 3 [0x01, 0x02, 0x03], flState 1 [0x03, 0x09]].map
      (fun s => (nextOf (internal s)).map fun t => (t.phase, t.status, t.fln, t.rxq))
    = [some (.fl, .busy, 2, [0x02, 0x03]), some (.idle, .ok, 0, [0x09])] := by decide

/-! ### Events and placing an operation -/

/-- T2, T5: a tick counts in `RX_WAIT` and not in `IDLE`; it never goes below 0. -/
theorem test_tick : [rxWaitState 4 [], rxWaitState 0 [], { State.reset with timer := 9 }].map
    (fun s => (nextOf (takeTurn .tick s)).map (·.timer)) = [some 3, some 0, some 9] := by decide

/-- Z1: `rst` in `TX_BODY`. -/
theorem test_rst : (nextOf (takeTurn .rst { txBodyState 1 with cfg := { Config.suggested with seqReset := 0x40 } })).map
    (fun t => (t.seq, t.phase, t.status, t.txlog)) = some (0x40, .idle, .ok, [0x1B, 0x00, 0x00, 0x02, 0x0E, 0x01]) := by
  decide

/-- Z3, Z4: `rst` empties neither the receive queue nor the command port. -/
theorem test_rst_keeps : (nextOf (takeTurn .rst { rxWaitState 9 [0x55, 0xAA] with cmdPort := [[word 0b0011]] })).map
    (fun t => (t.phase, t.timer, t.rxq, t.cmdPort)) = some (.idle, 0, [0x55, 0xAA], [[word 0b0011]]) := by decide

/-- The memory after reset is in canonical form and lists nothing. -/
theorem test_reset_memory : State.reset.body = [] ∧ Memory.wf State.reset.body = true := by decide

/-- The operation of a table word runs as the first step after reset. -/
theorem test_withFetchWord : (nextOf (step (State.reset.withFetchWord 8 0b1101))).map (·.status) = some .illegalCommand
    ∧ (nextOf (step (State.reset.withFetchWord 8 0b0001))).map (·.phase) = some .txHdr
    ∧ (nextOf (step (State.reset.withFetchWord 2 0b01))).map (·.rdOut) = some (some 0x0000)
    ∧ (nextOf (step (State.reset.withFetchWord 40 0x1B0000000E))).map (·.rxq) =
      some [0x1B, 0x00, 0x00, 0x00, 0x0E, 0x00] := by decide

/-! ### Witnesses: for every statement with hypotheses, states and operands that meet them all

The name says which statement a witness is for; a statement with several clauses has one for each, at a boundary of its
range where it has one. -/

/-- The invariants as a computation, for concrete states. -/
def invCheck (s : State) : Bool :=
  decide (s.status = .busy ↔ s.phase ≠ .idle)
  && decide (s.respLen.toNat ≤ s.cfg.bufCap.val)
  && decide (s.phase = .rxHdr → s.idx.toNat < 5 ∧ 6 ≤ s.rxq.length + s.idx.toNat)
  && decide (s.phase = .rxBody →
      s.idx.toNat < s.size.toNat ∧ s.size.toNat ≤ s.maxlen.toNat ∧ ∀ i, i < s.idx.toNat → s.bodyKnown i = true)
  && decide (s.phase = .rxCks → s.size.toNat ≤ s.maxlen.toNat ∧ ∀ i, i < s.size.toNat → s.bodyKnown i = true)
  && decide (s.phase.isRx = true → s.maxlen.toNat ≤ s.cfg.bufCap.val)
  && decide (s.phase.isRx = true → s.respLen = 0)
  && decide (s.phase.isTx = true → s.pay.length = s.txlen.toNat)
  && decide (s.phase = .txHdr → s.idx.toNat < 5)
  && decide (s.phase = .txBody → s.idx.toNat < s.txlen.toNat)
  && decide (s.phase = .fl → 1 ≤ s.fln ∧ s.fln ≤ s.rxq.length)
  && decide (∀ i, i < s.respLen.toNat → s.bodyKnown i = true)
  && Memory.wf s.body
  && decide (∀ c ∈ s.body, c.1 < s.cfg.bufCap.val)
  && decide (s.timer < 2 ^ s.cfg.timerW)
  && s.cfg.rxqCap.all (fun m => decide (s.rxq.length ≤ m))

theorem inv_of_check {s : State} (h : invCheck s = true) : Inv s := by
  simp only [invCheck, Bool.and_eq_true, decide_eq_true_eq] at h
  obtain ⟨⟨⟨⟨⟨⟨⟨⟨⟨⟨⟨⟨⟨⟨⟨h1, h2⟩, h3⟩, h4⟩, h5⟩, h6⟩, h7⟩, h8⟩, h9⟩, h10⟩, h11⟩, h12⟩, h13⟩, h14⟩, h15⟩, h16⟩ := h
  refine ⟨h1, h2, h3, h4, h5, h6, h7, h8, h9, h10, h11, h12, h13, h14, h15, ?_⟩
  intro m hm
  simpa [hm] using h16

theorem witness_Inv_idle : Inv afterA1 := inv_of_check (by decide)
theorem witness_Inv_txHdr : Inv (txHdrState 4 [0x01]) := inv_of_check (by decide)
theorem witness_Inv_txBody : Inv (txBodyState 1) := inv_of_check (by decide)
theorem witness_Inv_txCks : Inv txCksState := inv_of_check (by decide)
theorem witness_Inv_rxWait : Inv (rxWaitState 4294967295 []) := inv_of_check (by decide)
theorem witness_Inv_rxHdr : Inv (rxHdrState 0) := inv_of_check (by decide)
theorem witness_Inv_rxChk : Inv (rxChkState 0x1B 0x04 0x01 0x0A 0x0E 65535) := inv_of_check (by decide)
theorem witness_Inv_rxBody : Inv (rxBodyState 1 0 [0x00]) := inv_of_check (by decide)
theorem witness_Inv_rxCks : Inv (rxCksState 0 [0x16]) := inv_of_check (by decide)
theorem witness_Inv_fl : Inv (flState 1 [0x03, 0x09]) := inv_of_check (by decide)

/-- What the statements about a step suppose: the step answers a next state. -/
def goesOn (s : State) : Prop := ∃ t, step s = .next t

/-- The state with `ts` as the turns to come. -/
def withTurns (s : State) (ts : List Turn) : State := { s with agenda := ts }

/-! Encodings -/

theorem witness_DecodeOfEncode : (Instr.await 65535 4294967295).wf Config.suggested = true
    ∧ (Instr.synctry 2 [0x01, 0x02] 0 0).wf Config.suggested = true := by decide

theorem witness_CommandWordsDecode : 0b0100 ≤ (word 0b0100).op ∧ 0b0100 ≤ (word 0b1111).op ∧ (word 0b0011).op = 0b0011 := by
  decide

theorem witness_WireFramesDecode :
    decode (.wire [0x1B, 0x00, 0x00, 0x00, 0x0E, 0x15]) = .ok (.frameV2Header 0x00 0 [] 0x15) := rfl

/-- E8: the largest legal body; A20: a well-formed frame. -/
theorem witness_EncodeParseInverse :
    (∃ cp : List Byte, cp.length = 65535 ∧ cp.length + ([] : List Byte).length ≤ 65535)
    ∧ frameWellFormed [0x1B, 0x00, 0x00, 0x02, 0x0E, 0x11, 0x10, 0x16] = true :=
  have h : (List.replicate 65535 (0x55 : Byte)).length = 65535 := List.length_replicate
  ⟨⟨_, h, by rw [h]; exact Nat.le_refl _⟩, by decide⟩

theorem witness_ChecksumBalances : ∃ cp : List Byte, cp.length = 65535 ∧ cp.length + ([] : List Byte).length ≤ 65535 :=
  witness_EncodeParseInverse.1

/-- E9. -/
theorem witness_SplitNotRecorded : ([0x11, 0x22] : List Byte).length + ([0x33] : List Byte).length ≤ 65535
    ∧ ([0x11, 0x22] : List Byte) ++ [0x33] = [0x11] ++ [0x22, 0x33] := by decide

/-! `SEND` -/

theorem witness_SendAccepted_refused : State.reset.phase = .idle ∧ 65535 < (65535 : Half).toNat + (1 : Half).toNat := by decide

theorem witness_SendAccepted_largest : State.reset.phase = .idle ∧ (65535 : Half).toNat + (0 : Half).toNat ≤ 65535
    ∧ (List.replicate 65535 (0x55 : Byte)).length = (65535 : Half).toNat + (0 : Half).toNat :=
  ⟨rfl, by decide, by rw [List.length_replicate]; rfl⟩

theorem witness_SendAccepted_empty : (0 : Half).toNat + (0 : Half).toNat ≤ 65535
    ∧ ([] : List Byte).length = (0 : Half).toNat + (0 : Half).toNat := by decide

theorem witness_SendPayloadMismatch : State.reset.phase = .idle ∧ (1 : Half).toNat + (1 : Half).toNat ≤ 65535
    ∧ ([0x01] : List Byte).length < (1 : Half).toNat + (1 : Half).toNat
    ∧ ([0x01, 0x02] : List Byte).length = (1 : Half).toNat + (1 : Half).toNat := by decide

theorem witness_HeaderStepEmits_waits : { txHdrState 0 [] with txReady := false }.phase = .txHdr := by decide

theorem witness_HeaderStepEmits_first : (txHdrState 0 [0x01]).phase = .txHdr ∧ (txHdrState 0 [0x01]).txReady = true
    ∧ ([0x1B, 0x00, 0x00, 0x01, 0x0E] : List Byte)[(txHdrState 0 [0x01]).idx.toNat]? = some 0x1B := by decide

theorem witness_HeaderStepEmits_last : (txHdrState 4 [0x01]).txReady = true ∧ (txHdrState 4 [0x01]).idx = 4
    ∧ ([0x1B, 0x00, 0x00, 0x01, 0x0E] : List Byte)[(txHdrState 4 [0x01]).idx.toNat]? = some 0x0E := by decide

/-- Premises of the last clause: the invariants with the header of E2 emitted. -/
theorem witness_ChecksumStepEmits_invariants : Inv txCksState ∧ TxInv [] txCksState :=
  ⟨inv_of_check (by decide), ⟨⟨[], by decide, by decide⟩, by decide⟩⟩

theorem witness_BodyStepEmits : [0, 1].map (fun i => ((txBodyState i).phase, (txBodyState i).pay[(txBodyState i).idx.toNat]?))
    = [(.txBody, some 0x01), (.txBody, some 0x02)] := by decide

theorem witness_BodyStepEmits_waits : { txBodyState 0 with txReady := false }.phase = .txBody := by decide

theorem witness_ChecksumStepEmits : txCksState.phase = .txCks ∧ txCksState.txReady = true
    ∧ { txCksState with txReady := false }.phase = .txCks := by decide

/-- Turns for a `SEND` of two bytes while things arrive, tick and are read. -/
def sendTurns : List Turn :=
  [.block, .tick, .block, .arrive 0x55, .block, .block, .read { sel := 0b00, addr := 0 }, .block, .block,
    .wire [0x1B, 0x00], .block, .block, .tick]

theorem witness_SendEmitsItsFrame :
    let s : State := { State.reset with cmdPort := [[sendWord 1 1 [0x02, 0x03]]], agenda := .command :: sendTurns }
    s.phase = .idle ∧ s.txReady = true ∧ ([0x02] : List Byte).length + ([0x03] : List Byte).length ≤ 65535
    ∧ s.cmdPort = [sendWord (BitVec.ofNat 16 [(0x02 : Byte)].length) (BitVec.ofNat 16 [(0x03 : Byte)].length) ([0x02] ++ [0x03])] :: []
    ∧ s.agenda = .command :: sendTurns ∧ (∀ e ∈ sendTurns, e.calm = true)
    ∧ sendTurns.count .block = 6 + ([0x02] : List Byte).length + ([0x03] : List Byte).length := by decide

theorem witness_TransmitOnlyWhileSending : goesOn (txHdrState 0 [0x01]) ∧ goesOn State.reset := ⟨⟨_, rfl⟩, ⟨_, rfl⟩⟩

/-- Between frames: the log of E2. -/
theorem witness_TransmitLogIsFrames_idle : let s := { State.reset with txlog := [0x1B, 0x00, 0x00, 0x00, 0x0E, 0x15] }
    Inv s ∧ TxInv [] s ∧ s.turn ≠ .rst ∧ goesOn s :=
  ⟨inv_of_check (by decide), ⟨⟨[[0x1B, 0x00, 0x00, 0x00, 0x0E, 0x15]], by decide, by decide⟩, by decide⟩, by decide, ⟨_, rfl⟩⟩

/-- Inside a frame, behind a base that is none. -/
theorem witness_TransmitLogIsFrames_sending : let s := { txBodyState 1 with txlog := 0xFF :: (txBodyState 1).txlog }
    Inv s ∧ TxInv [0xFF] s ∧ s.turn ≠ .rst ∧ goesOn s :=
  ⟨inv_of_check (by decide), ⟨⟨[], by decide, by decide⟩, by decide⟩, by decide, ⟨_, rfl⟩⟩

/-! `AWAIT` -/

/-- A step that fails, with the premises of the second part. -/
theorem witness_FailureEntry : (rxCksState 0 [0x17]).phase.isRx = true
    ∧ ∃ t, internal (rxCksState 0 [0x17]) = .next t ∧ t.phase = .idle ∧ t.status ≠ .ok :=
  ⟨rfl, _, rfl, rfl, (nofun : Code.checksumMismatch ≠ Code.ok)⟩

theorem witness_AwaitAccepted : let s := { State.reset with cfg := small 300 }
    s.phase = .idle ∧ 4294967295 < 2 ^ s.cfg.timerW ∧ s.cfg.bufCap.val < (301 : Half).toNat
    ∧ (300 : Half).toNat ≤ s.cfg.bufCap.val := by decide

theorem witness_WaitStep : (rxWaitState 0 [1, 2, 3, 4, 5, 6]).phase = .rxWait ∧ 6 ≤ (rxWaitState 0 [1, 2, 3, 4, 5, 6]).rxq.length
    ∧ (rxWaitState 0 [1, 2, 3, 4, 5]).rxq.length < 6 ∧ (rxWaitState 0 []).timer = 0 ∧ 0 < (rxWaitState 1 []).timer := by decide

theorem witness_HeaderStepLatches : [0, 4].map (fun i => ((rxHdrState i).phase, (rxHdrState i).rxq.head?, decide ((rxHdrState i).idx.toNat < 5)))
    = [(.rxHdr, some 0x1B, true), (.rxHdr, some 0x0E, true)] := by decide

/-- The branches of the check, at the boundary `maxlen = declared` and `declared = 0`. -/
theorem witness_HeaderChecksInOrder : (rxChkState 0x1A 0x04 0x00 0x00 0x0E 0).phase = .rxChk
    ∧ (rxChkState 0x1B 0x04 0x01 0x0A 0x0E 266).maxlen.toNat = 0x01 * 256 + 0x0A
    ∧ (rxChkState 0x1B 0x04 0x01 0x0A 0x0E 265).maxlen.toNat < 0x01 * 256 + 0x0A := by decide

/-- The last byte of a full buffer, and an empty queue with and without time. -/
theorem witness_BodyStepStores : (rxBodyState 1 0 [0x00]).phase = .rxBody ∧ (rxBodyState 1 0 [0x00]).rxq = [0x00]
    ∧ (rxBodyState 1 0 [0x00]).idx.toNat < (rxBodyState 1 0 [0x00]).cfg.bufCap.val
    ∧ (rxBodyState 1 0 []).rxq = [] ∧ (rxBodyState 1 0 []).timer = 0 ∧ 0 < (rxBodyState 1 1 []).timer := by decide

theorem witness_ChecksumStepJudges : (rxCksState 0 [0x16]).phase = .rxCks ∧ (rxCksState 0 [0x16]).rxq = [(rxCksState 0 [0x16]).cks]
    ∧ (rxCksState 0 [0x17]).rxq = [0x17] ∧ (0x17 : Byte) ≠ (rxCksState 0 [0x17]).cks
    ∧ (rxCksState 0 []).rxq = [] ∧ (rxCksState 0 []).timer = 0 ∧ 0 < (rxCksState 1 []).timer := by decide

/-- `AWAIT maxlen, timeout` offered to a block of buffer `cap` with `SEQ = 01` and `q` buffered. -/
def quietState (cap : Fin 65536) (maxlen : Half) (timeout : Nat) (q : List Byte) (evs : List Turn) : State :=
  { State.reset with
    cfg := small cap, seq := 0x01, rxq := q, cmdPort := [[awaitWord maxlen timeout], [plainWord 0x3]]
    agenda := .command :: (evs ++ List.replicate (q.length + 8) .block) }

/-- A quiet line from what can be computed. -/
theorem quiet_of {cap : Fin 65536} {maxlen : Half} {timeout : Nat} {q : List Byte} {evs : List Turn}
    (h : decide (maxlen.toNat ≤ cap.val ∧ timeout < 2 ^ 32 ∧ (∀ e ∈ evs, e.quiet = true) ∧ timeout ≤ evs.count .tick) = true) :
    QuietAwait (quietState cap maxlen timeout q evs) maxlen timeout evs := by
  obtain ⟨h1, h2, h3, h4⟩ := of_decide_eq_true h
  exact ⟨rfl, rfl, rfl, h1, h2, h3, h4⟩

/-- Ticks before, between and after the block's own turns; `maxlen` is the whole buffer. -/
theorem witness_AwaitOnQuietLine :
    QuietAwait (quietState 2 2 2 [0x1B] [.tick, .block, .tick, .block, .tick]) 2 2 [.tick, .block, .tick, .block, .tick] :=
  quiet_of (by decide)

theorem witness_AwaitOnQuietLine_no_time : QuietAwait (quietState 65535 65535 0 [] []) 65535 0 [] := quiet_of (by decide)

/-- E2's frame with its last byte arriving during the `AWAIT`. -/
theorem witness_AwaitAcceptsOnlyFrames :
    let s := { State.reset with seq := 0x01, rxq := [0x1B, 0x00, 0x00, 0x00, 0x0E] }
    let evs : List Turn := .arrive 0x15 :: List.replicate 8 .block
    s.phase = .idle ∧ (0 : Half).toNat ≤ s.cfg.bufCap.val ∧ (∀ e ∈ evs, e.calm = true)
    ∧ ∃ t₀ t, exec (.await 0 0) s = .next t₀ ∧ steps evs.length { t₀ with agenda := evs } = .next t ∧ t.phase = .idle ∧ t.status = .ok :=
  ⟨rfl, by decide, by decide, _, _, rfl, rfl, rfl, rfl⟩

/-- A header with a wrong token, its last byte arriving during the `AWAIT`. -/
theorem witness_AwaitIsAFunctionOfTheBytes :
    let s := { State.reset with seq := 0x01, rxq := [0x1B, 0x00, 0x00, 0x00, 0x0F] }
    let evs : List Turn := .arrive 0x15 :: List.replicate 7 .block
    s.phase = .idle ∧ s.cfg.rxqCap = none ∧ (0 : Half).toNat ≤ s.cfg.bufCap.val ∧ (∀ e ∈ evs, e.calm = true)
    ∧ ∃ t₀ t, exec (.await 0 0) s = .next t₀ ∧ steps evs.length { t₀ with agenda := evs } = .next t ∧ t.phase = .idle
      ∧ t.status ≠ .timeout :=
  ⟨rfl, rfl, by decide, by decide, _, _, rfl, rfl, rfl, (nofun : Code.malformedHeader ≠ Code.timeout)⟩

/-- What `AwaitAcceptsEveryFrame` supposes of the frame of A13 with `q` buffered and `before` and `after` to come;
`maxlen` and the buffer are as long as the body. -/
def frameComing (timeout : Nat) (q rest : List Byte) (before after : List Turn) : Bool :=
  let body : List Byte := [0x01, 0x00]
  let s : State := { quietState 2 2 timeout q [] with agenda := .command :: (before ++ after ++ List.replicate 10 .block) }
  decide (s.phase = .idle ∧ s.cfg.rxqCap = none ∧ s.cmdPort = [awaitWord 2 timeout] :: [[plainWord 0x3]]
    ∧ (2 : Half).toNat ≤ s.cfg.bufCap.val ∧ timeout < 2 ^ s.cfg.timerW
    ∧ (∀ e ∈ before, e.calm = true) ∧ (∀ e ∈ after, e.calm = true)
    ∧ s.agenda = .command :: (before ++ after ++ List.replicate (8 + body.length) .block)
    ∧ (0x00 : Byte) + 1 = s.seq ∧ body.length ≤ (2 : Half).toNat ∧ s.rxq ++ arrivals before = encodeV2 0x00 body [] ++ rest
    ∧ (6 + body.length ≤ s.rxq.length ∨ before.count .tick < timeout))

/-- All buffered and no time. -/
theorem witness_AwaitAcceptsEveryFrame_buffered :
    frameComing 0 [0x1B, 0x00, 0x00, 0x02, 0x0E, 0x01, 0x00, 0x16] [] [] [.tick, .wire [0x1B, 0x01, 0x00]] = true := by decide

/-- R162, data before the timer: the last byte arrives one tick before the end, the timer runs out before it is read. -/
theorem witness_AwaitAcceptsEveryFrame_arriving :
    frameComing 2 [0x1B, 0x00, 0x00] [0x1B] [.block, .tick, .wire [0x02, 0x0E, 0x01, 0x00], .block, .wire [0x16, 0x1B]]
      [.tick, .tick, .arrive 0x55] = true := by decide

/-- L3, with `maxlen` and the buffer as long as the body. -/
theorem witness_LoopbackAccepted :
    let s : State := { State.reset with
      cfg := small 3, seq := 0x03, cmdPort := [[sendWord 2 1 [0x11, 0x22, 0x33], awaitWord 3 0]]
      agenda := .command :: (List.replicate 9 .block
        ++ [.wire [0x1B, 0x03, 0x00, 0x03, 0x0E, 0x11, 0x22, 0x33, 0x15], .command] ++ List.replicate 11 .block) }
    let cp : List Byte := [0x11, 0x22]
    let data : List Byte := [0x33]
    s.phase = .idle ∧ s.txReady = true ∧ s.rxq = [] ∧ cp.length + data.length ≤ (3 : Half).toNat
    ∧ (3 : Half).toNat ≤ s.cfg.bufCap.val
    ∧ s.cmdPort = [[sendWord (BitVec.ofNat 16 cp.length) (BitVec.ofNat 16 data.length) (cp ++ data), awaitWord 3 0]]
    ∧ s.agenda = .command :: (List.replicate (6 + cp.length + data.length) .block
      ++ [.wire (encodeV2 s.seq cp data), .command] ++ List.replicate (8 + cp.length + data.length) .block) := by decide

/-- The capacity premise of the loop-back law: an unbounded queue, and one that the frame fills exactly. -/
theorem witness_LoopbackAccepted_capacity : withinCap none (6 + 2 + 1) ∧ withinCap (some 9) (6 + 2 + 1) :=
  ⟨nofun, fun m h => by cases h; decide⟩

/-- The damaged frames of section 2.4 of the vectors. -/
def damaged (j : Nat) (b : Byte) : State := quietState 16 16 0 ((encodeV2 0x00 [0x01, 0x00] []).set j b) []

/-- What `OneDamagedByte` supposes of byte `j` replaced by `b`. -/
def damages (j : Nat) (b : Byte) : Prop :=
  QuietAwait (damaged j b) 16 0 [] ∧ 0x00 + 1 = (damaged j b).seq ∧ ([0x01, 0x00] : List Byte).length ≤ (16 : Half).toNat
    ∧ j < 6 + ([0x01, 0x00] : List Byte).length ∧ b ≠ (encodeV2 0x00 [0x01, 0x00] []).getD j 0
    ∧ (damaged j b).rxq = (encodeV2 0x00 [0x01, 0x00] []).set j b

theorem witness_OneDamagedByte_start : damages 0 0x1A := ⟨quiet_of (by decide), by decide⟩
theorem witness_OneDamagedByte_sequence : damages 1 0x01 := ⟨quiet_of (by decide), by decide⟩
theorem witness_OneDamagedByte_token : damages 4 0x0F := ⟨quiet_of (by decide), by decide⟩
theorem witness_OneDamagedByte_body : damages 5 0x00 ∧ damages 6 0x80 := ⟨⟨quiet_of (by decide), by decide⟩, quiet_of (by decide), by decide⟩
theorem witness_OneDamagedByte_checksum : damages 7 0x17 := ⟨quiet_of (by decide), by decide⟩

/-- A declared length above `maxlen`, between the body's and `maxlen`, and below the body's. -/
theorem witness_OneDamagedByte_length : damages 2 0x01 ∧ damages 3 0x10 ∧ damages 3 0x03 ∧ damages 3 0x01 :=
  ⟨⟨quiet_of (by decide), by decide⟩, ⟨quiet_of (by decide), by decide⟩, ⟨quiet_of (by decide), by decide⟩, quiet_of (by decide), by decide⟩

/-- A21: E12's frame with its length field made 0; the body byte 15 is the exclusive-or of the damaged header. In A1's
frame with its length field made 1 (and 0) it is not. -/
theorem witness_OneDamagedByte_truncated :
    let f := (encodeV2 0x00 [0x15] []).set 3 0x00
    QuietAwait (quietState 16 16 0 f []) 16 0 [] ∧ f = [0x1B, 0x00, 0x00, 0x00, 0x0E, 0x15, 0x01]
    ∧ (0x00 : Byte) ≠ (encodeV2 0x00 [0x15] []).getD 3 0
    ∧ ([0x15] : List Byte).getD 0 0 = xorAll (f.take 5 ++ ([0x15] : List Byte).take 0)
    ∧ ([0x01, 0x00] : List Byte).getD 0 0 ≠ xorAll ((damaged 3 0x00).rxq.take 5 ++ ([0x01, 0x00] : List Byte).take 0)
    ∧ damages 3 0x00 :=
  ⟨quiet_of (by decide), by decide, by decide, by decide, by decide, quiet_of (by decide), by decide⟩

theorem witness_AwaitLeavesAlone : Inv (rxBodyState 1 0 [0x00]) ∧ (rxBodyState 1 0 [0x00]).phase.isRx = true
    ∧ ∃ t, internal (rxBodyState 1 0 [0x00]) = .next t := ⟨inv_of_check (by decide), rfl, _, rfl⟩

/-- Q6: body bytes received, none readable. -/
theorem witness_NothingReadableEarly : Inv (rxCksState 3 []) ∧ (rxCksState 3 []).phase.isRx = true :=
  ⟨inv_of_check (by decide), rfl⟩

theorem witness_AwaitTerminates :
    let evs : List Turn := [.tick, .arrive 0x00, .tick]
    let s := withTurns (rxBodyState 1 2 []) (evs ++ List.replicate 9 .block)
    Inv s ∧ s.phase.isRx = true ∧ (∀ e ∈ evs, e.calm = true) ∧ s.timer ≤ evs.count .tick
    ∧ s.agenda = evs ++ List.replicate (s.rxq.length + (arrivals evs).length + 8) .block :=
  ⟨inv_of_check (by decide), rfl, by decide, by decide, rfl⟩

/-! `FLUSH`, `NOP`, reserved opcodes, reads -/

theorem witness_FlushAccepted : State.reset.phase = .idle ∧ State.reset.rxq = []
    ∧ { State.reset with rxq := [0x55] }.phase = .idle ∧ { State.reset with rxq := [0x55] }.rxq ≠ [] := by decide

theorem witness_FlushStepDiscards : (flState 1 [0x03, 0x09]).phase = .fl ∧ (flState 1 [0x03, 0x09]).rxq = [0x03, 0x09]
    ∧ 1 ≤ (flState 1 [0x03, 0x09]).fln ∧ (flState 2 [0x03, 0x09]).fln ≠ 1 := by decide

/-- F3: a byte arrives after the count was taken. -/
theorem witness_FlushRemovesTheSnapshot :
    let evs : List Turn := [.block, .arrive 0x09, .block, .tick, .block]
    let s : State := { State.reset with rxq := [0x01, 0x02, 0x03], cmdPort := [[plainWord 0b0011]], agenda := .command :: evs }
    s.phase = .idle ∧ s.cmdPort = [plainWord 0b0011] :: [] ∧ s.agenda = .command :: evs
    ∧ (∀ e ∈ evs, e.calm = true) ∧ evs.count .block = s.rxq.length := by decide

theorem witness_NopChangesNothing : afterA1.phase = .idle := by decide

theorem witness_ReservedOpcodesRefused : Instr.reservedF ∈ [Instr.reserved4, .reserved5, .reserved6, .reserved7, .reserved8,
    .reserved9, .reservedA, .reservedB, .reservedC, .reservedD, .reservedE, .reservedF] ∧ State.reset.phase = .idle := by decide

/-- The remaining codes of R21 as `RDSTAT` reads them in `IDLE`. -/
theorem test_rdstat_codes : [Code.ok, .timeout, .malformedHeader, .sequenceMismatch, .checksumMismatch, .responseTooLarge].map
      (fun c => (nextOf (exec .rdstat { State.reset with status := c })).bind (·.rdOut))
    = [some 0x0000, some 0x0001, some 0x0002, some 0x0003, some 0x0004, some 0x0005] := by decide

theorem witness_RdstatReadsStatus : Inv (txBodyState 0) ∧ Inv { State.reset with status := .illegalOperand } :=
  ⟨inv_of_check (by decide), inv_of_check (by decide)⟩

/-- The last readable byte, and the first that is not. -/
theorem witness_RdbodyReadsBody : (1 : Half).toNat < afterA1.respLen.toNat ∧ afterA1.respLen.toNat ≤ (2 : Half).toNat := by decide

theorem witness_CommandHeldWhileBusy : (txHdrState 0 []).phase ≠ .idle ∧ encode .flush = .command [plainWord 0x3] :=
  ⟨by decide, rfl⟩

/-! The wire, pseudo-operations, events -/

/-- An unbounded queue; one that the frame, the byte or the byte string fills exactly; a full one. -/
theorem witness_FrameArrives : withinCap State.reset.cfg.rxqCap (State.reset.rxq.length + 6 + 1)
    ∧ withinCap (some 8) (1 + 6 + ([0x01] : List Byte).length) ∧ withinCap (some 8) (7 + 1)
    ∧ withinCap (some 8) (5 + ([0x1B, 0x00, 0x00] : List Byte).length)
    ∧ let s : State := { State.reset with cfg := { Config.suggested with rxqCap := some 6 }, rxq := [1, 2, 3, 4, 5, 6] }
      s.cfg.rxqCap = some 6 ∧ 6 ≤ s.rxq.length :=
  ⟨nofun, fun m h => by cases h; decide, fun m h => by cases h; decide, fun m h => by cases h; decide, rfl, by decide⟩

theorem witness_XactIsSendThenAwait : State.reset.phase = .idle ∧ (1 : Half).toNat + (0 : Half).toNat ≤ 65535
    ∧ ([0x01] : List Byte).length = (1 : Half).toNat + (0 : Half).toNat := by decide

theorem witness_SynctryIsFlushSendAwait : { State.reset with rxq := [0x55] }.phase = .idle ∧ State.reset.rxq = [] := by decide

theorem witness_TickCountsDown : (rxWaitState 1 []).phase ∈ [.rxWait, .rxHdr, .rxChk, .rxBody, .rxCks] ∧ 0 < (rxWaitState 1 []).timer
    ∧ (rxWaitState 0 []).timer = 0 ∧ (txHdrState 0 []).phase ∉ [.rxWait, .rxHdr, .rxChk, .rxBody, .rxCks] := by decide

/-! Rules about the whole machine -/

theorem witness_EveryStepKeepsInv : Inv (rxBodyState 0 0 [0x01, 0x00]) ∧ goesOn (rxBodyState 0 0 [0x01, 0x00]) :=
  ⟨inv_of_check (by decide), _, rfl⟩

/-- The header and the first body byte of A1 consumed; `CKS` is their exclusive-or. -/
theorem witness_ReceiveChecksumAccumulates :
    let s : State := { rxBodyState 1 0 [0x00] with
      hdr := { start := 0x1B, sequence := 0x00, lenHi := 0x00, lenLo := 0x02, token := 0x0E }, cks := 0x16 }
    Inv s ∧ RxInv s ∧ goesOn s :=
  ⟨inv_of_check (by decide), ⟨by decide, by decide, by decide⟩, _, rfl⟩

/-- The last clause of `ChecksumStepJudges`: the invariant in `RX_CKS`. -/
theorem witness_ChecksumStepJudges_invariant :
    RxInv { rxCksState 0 [] with
      hdr := { start := 0x1B, sequence := 0x00, lenHi := 0x00, lenLo := 0x02, token := 0x0E } } :=
  ⟨by decide, by decide, by decide⟩

theorem witness_NoIndexFault : Inv (rxHdrState 4) ∧ Inv (txHdrState 4 []) ∧ Inv (txBodyState 1) ∧ Inv (rxBodyState 1 0 [0x00]) :=
  ⟨inv_of_check (by decide), inv_of_check (by decide), inv_of_check (by decide), inv_of_check (by decide)⟩

theorem witness_SeqWrittenBySendOnly : goesOn (withTurns State.reset [.rst])
    ∧ goesOn { State.reset with cmdPort := [[sendWord 0 0 []]] } := ⟨⟨_, rfl⟩, ⟨_, rfl⟩⟩

theorem witness_OnlyPopRemovesBytes : goesOn (rxHdrState 0) ∧ goesOn (withTurns (rxHdrState 0) [.arrive 0x55]) := ⟨⟨_, rfl⟩, ⟨_, rfl⟩⟩

/-- F4: a `FLUSH` over a readable body. -/
theorem witness_BodyStaysReadable : let s := { afterA1 with cmdPort := [[plainWord 0b0011]], rxq := [0x55] }
    s.phase.isRx = false ∧ s.turn ≠ .rst ∧ ∃ t, step s = .next t ∧ t.phase.isRx = false :=
  ⟨rfl, by decide, _, rfl, rfl⟩

theorem witness_ParametersConstant : goesOn (withTurns (txBodyState 0) [.rst]) := ⟨_, rfl⟩

/-- Two states after reset that differ in registers no rule reads there. -/
theorem witness_UnspecifiedNeverMatters :
    SameLive State.reset { State.reset with idx := 7, tseq := 0x55, pay := [0x01], size := 9, fln := 3, fresh := 4 }
    ∧ goesOn State.reset := by
  refine ⟨?_, _, rfl⟩
  constructor <;> first | rfl | simp [State.reset, Phase.isRx, Phase.isTx]

theorem witness_StepRunsDecoded_events : [Turn.rst, .tick, .arrive 0x55, .txReady false, .wire [0x1B]].all
    (fun e => decide ((withTurns State.reset [e]).agenda = e :: [])) = true := by decide

theorem witness_StepRunsDecoded : (withTurns State.reset [.command]).agenda = [.command]
    ∧ State.reset.agenda = [] ∧ State.reset.phase = .idle ∧ { State.reset with cmdPort := [[plainWord 0x3]] }.cmdPort = [[plainWord 0x3]]
    ∧ decode (.command [plainWord 0x3]) = .ok .flush ∧ decode (.read { sel := 0b10, addr := 0 }) = .ok .rdlen
    ∧ decode (.wire [0x1B, 0x00, 0x00, 0x00, 0x0E, 0x15]) = .ok (.frameV2Header 0x00 0 [] 0x15) :=
  ⟨rfl, rfl, rfl, rfl, rfl, rfl, rfl⟩

theorem witness_PortsMatchTransitions : ∃ t, internal (rxHdrState 0) = .next t := ⟨_, rfl⟩

/-- The payload port in a `TX_BODY` step, and with a Transport that is not ready. -/
theorem witness_PortsMatchTransitions_payload : (txBodyState 1).plReady = true ∧ (∃ t, internal (txBodyState 1) = .next t)
    ∧ { txBodyState 1 with txReady := false }.phase = .txBody ∧ { txBodyState 1 with txReady := false }.plReady = false :=
  ⟨rfl, ⟨_, rfl⟩, rfl, rfl⟩

/-- A command offered to a ready and to a busy block. -/
theorem witness_PortsMatchTransitions_command :
    let s := { State.reset with cmdPort := [word 0b0001] :: [] }
    let b := { txCksState with cmdPort := [word 0b0001] :: [] }
    s.cmdReady = true ∧ (∃ t, commandTurn s = .next t) ∧ b.cmdReady = false ∧ ∃ t, commandTurn b = .next t :=
  ⟨rfl, ⟨_, rfl⟩, rfl, _, rfl⟩

theorem witness_EndedRunRests : State.reset.ended = true ∧ State.reset.agenda = [] ∧ State.reset.turn ≠ .rst := by decide

/-- Bytes and a reset may still come after the end of a run; a read to come means it has not ended (R195). -/
theorem witness_EndedRunRests_events : (withTurns State.reset [.arrive 0x55, .tick, .rst]).ended = true
    ∧ (withTurns State.reset [.arrive 0x55, .tick, .rst]).turn ≠ .rst
    ∧ (withTurns State.reset [.read { sel := 0b00, addr := 0 }]).ended = false := by decide

/-- Each kind of turn a run can still see after its end. -/
theorem witness_EndedRunRests_turns : [Turn.block, .command, .tick, .arrive 0x55, .wire [0x55, 0xAA], .txReady false].all
    (fun e => (withTurns State.reset [e]).ended && decide ((withTurns State.reset [e]).turn = e)) = true := by decide

end Sys2Proof.Tests
end

section
/-! The parameters of R6 along a step, and what a step runs (R9, R72). -/

namespace Sys2Proof.Machine

/-! ### The parameters (R6) -/

@[simp] theorem State.expire_cfg (s : State) : s.expire.cfg = s.cfg := by
  rcases expire_cases s with ⟨-, h⟩ | ⟨-, h⟩ <;> rw [h]
  rfl

@[simp] theorem State.afterTurn_cfg (s : State) : s.afterTurn.cfg = s.cfg := rfl

@[simp] theorem acceptSend_cfg (a b : Half) (p : List Byte) (s : State) : (acceptSend a b p s).cfg = s.cfg := by
  rcases acceptSend_cases a b p s with ⟨-, h⟩ | ⟨-, h⟩ <;> rw [h]
  rfl

@[simp] theorem acceptAwait_cfg (m : Half) (n : Nat) (s : State) : (acceptAwait m n s).cfg = s.cfg := by
  rcases acceptAwait_cases m n s with ⟨-, h⟩ | ⟨-, h⟩ <;> rw [h] <;> rfl

@[simp] theorem acceptFlush_cfg (s : State) : (acceptFlush s).cfg = s.cfg := by
  rcases acceptFlush_cases s with ⟨-, h⟩ | ⟨-, h⟩ <;> rw [h]

/-- Acceptance keeps the parameters (R6). -/
theorem Accepted.cfg_eq {s t : State} (h : Accepted s t) : t.cfg = s.cfg := by
  cases h with
  | nothing => rfl
  | refused c _ => exact State.refuse_cfg s c
  | send a b p => exact acceptSend_cfg a b p s
  | await m n => exact acceptAwait_cfg m n s
  | flush => exact acceptFlush_cfg s

/-- The turn of the command port keeps the parameters (R6). -/
theorem commandTurn_cfg {s t : State} (h : commandTurn s = .next t) : t.cfg = s.cfg := by
  rcases commandTurn_cases h with ⟨-, rfl⟩ | ⟨-, offers, rfl⟩ | ⟨-, offers, ha⟩
  · rfl
  · rfl
  · exact ha.cfg_eq

/-- The internal transition of every phase keeps the parameters (R6). -/
theorem internal_cfg {s t : State} (h : internal s = .next t) : t.cfg = s.cfg := by
  unfold internal at h
  cases hp : s.phase <;> simp only [hp] at h
  case idle => cases h; rfl
  case txHdr => rcases stepTxHdr_cases h with ⟨-, rfl⟩ | ⟨-, b, -, ⟨-, rfl⟩ | ⟨-, rfl⟩⟩ <;> rfl
  case txBody => rcases stepTxBody_cases h with ⟨-, rfl⟩ | ⟨-, b, -, ⟨-, rfl⟩ | ⟨-, rfl⟩⟩ <;> rfl
  case txCks => rcases stepTxCks_cases h with ⟨-, rfl⟩ | ⟨-, rfl⟩ <;> rfl
  case rxWait =>
    rcases stepRxWait_cases h with ⟨-, rfl⟩ | ⟨-, rfl⟩
    · rfl
    · exact s.expire_cfg
  case rxHdr => rcases stepRxHdr_cases h with ⟨-, rfl⟩ | ⟨b, rest, -, -, rfl⟩ <;> rfl
  case rxChk =>
    rcases stepRxChk_cases s with ⟨-, h'⟩ | ⟨-, -, h'⟩ | ⟨-, -, -, h'⟩ | ⟨-, -, -, h'⟩
    all_goals rw [h'] at h; cases h; rfl
  case rxBody =>
    rcases stepRxBody_cases h with ⟨-, rfl⟩ | ⟨b, rest, -, -, rfl⟩
    · exact s.expire_cfg
    · rfl
  case rxCks =>
    rcases stepRxCks_cases h with ⟨-, rfl⟩ | ⟨rest, -, rfl⟩ | ⟨b, rest, -, -, rfl⟩
    · exact s.expire_cfg
    · rfl
    · rfl
  case fl => rcases stepFl_cases h with ⟨-, rfl⟩ | ⟨b, rest, -, ⟨-, rfl⟩ | ⟨-, rfl⟩⟩ <;> rfl

/-- Settles O56, by whose turn it is: the block's and the command port's turn by the lemmas above, every other turn
writes fields that are no parameters. -/
theorem parametersConstant : Obligations.ParametersConstant := by
  intro s t h
  rcases step_cases h with ⟨-, hi⟩ | ⟨-, hc⟩ | ⟨w, d, -, rfl⟩ | ⟨bs, -, rfl⟩ | ⟨-, rfl⟩ | ⟨-, rfl⟩ | ⟨r, -, rfl⟩
  · exact (internal_cfg hi).trans s.afterTurn_cfg
  · exact (commandTurn_cfg hc).trans s.afterTurn_cfg
  all_goals rfl

/-! ### What a step runs (R9, R72) -/

/-- A step with an agenda is the turn at its head, taken off (log 3). -/
theorem step_of_agenda_cons {s : State} {e : Turn} {later : List Turn} (h : s.agenda = e :: later) :
    step s = takeTurn e { s with agenda := later } := by
  rw [step, h]

/-- In `IDLE` with an empty agenda the command port has the turn (log 3). -/
theorem step_of_idle_agenda_nil {s : State} (ha : s.agenda = []) (hp : s.phase = .idle) : step s = commandTurn s := by
  rw [step, ha]
  simp only [defaultTurn, hp, if_true, takeTurn]

/-- The turn of the command port runs the operation its words decode to (R72). -/
theorem commandTurn_of_decode {s : State} {ws : List CmdWord} {offers : List (List CmdWord)} {i : Instr}
    (hc : s.cmdPort = ws :: offers) (hd : decode (.command ws) = .ok i) :
    commandTurn s = exec i { s with cmdPort := offers } := by
  simp only [commandTurn, hc, hd]

/-- A read turn runs the read its word decodes to (R74). -/
theorem readTurn_of_decode {w : ReadWord} {i : Instr} (hd : decode (.read w) = .ok i) (s : State) :
    readTurn w s = exec i s := by
  cases hd
  rfl

/-- A byte string that is a frame is run as `FRAME_V2_HEADER` (R60). -/
theorem wireTurn_of_decode {bytes : List Byte} {i : Instr} (hd : decode (.wire bytes) = .ok i) (s : State) :
    wireTurn bytes s = exec i s := by
  rw [decode] at hd
  simp only [wireTurn, hd]

/-- Settles O58: each clause is the head of the agenda followed by the lemma about the kind of turn that stands there. -/
theorem stepRunsDecoded : Obligations.StepRunsDecoded := by
  intro s i ws offers w bytes e later
  refine ⟨step_of_agenda_cons, fun ha hc hd => ?_, fun ha hp hc hd => ?_, fun ha hd => ?_, fun ha hd => ?_,
    step_of_agenda_cons⟩
  · rw [step_of_agenda_cons ha]
    exact commandTurn_of_decode (s := { s with agenda := later }) hc hd
  · rw [step_of_idle_agenda_nil ha hp]
    exact commandTurn_of_decode hc hd
  · rw [step_of_agenda_cons ha]
    exact readTurn_of_decode hd _
  · rw [step_of_agenda_cons ha]
    exact wireTurn_of_decode hd _

end Sys2Proof.Machine
end

section
/-! What the block's turn can do, as a relation (R9, R12): one constructor per transition, with everything that enables
it, so that a proof about the block is a case split over its transitions. -/

namespace Sys2Proof.Machine

/-- The block stands at a waiting point and what it waits for is not there (R162). -/
def State.DataMissing (s : State) : Prop :=
  match s.phase with
  | .rxWait => s.rxq.length < 6
  | .rxBody | .rxCks => s.rxq = []
  | .idle | .txHdr | .txBody | .txCks | .rxHdr | .rxChk | .fl => False

/-- Only an `AWAIT` waits for data. -/
theorem State.DataMissing.isRx {s : State} (h : s.DataMissing) : s.phase.isRx = true := by
  unfold State.DataMissing at h
  split at h <;> simp_all [Phase.isRx]

/-- An `AWAIT` is no `SEND`. -/
theorem isTx_of_isRx {p : Phase} (h : p.isRx = true) : p.isTx = false := by
  cases p <;> simp_all [Phase.isRx, Phase.isTx]

/-- No transition of the block is enabled (R9). -/
def State.Stalled (s : State) : Prop :=
  match s.phase with
  | .idle => True
  | .txHdr | .txBody | .txCks => s.txReady = false
  | .rxHdr | .fl => s.rxq = []
  | .rxChk => False
  | .rxWait | .rxBody | .rxCks => s.DataMissing ∧ 0 < s.timer

/-- What the step `RX_HDR` makes of the byte `b` at the head of the queue (R103). -/
def State.latchByte (s : State) (b : Byte) (rest : List Byte) : State :=
  { (s.setRxq rest).accumulate b with
    hdr := s.hdr.latch s.idx.toNat b, idx := s.idx + 1, phase := if s.idx + 1 = 5 then .rxChk else .rxHdr }

/-- What the step `RX_CHK` makes of a header that passes the three checks (R107). -/
def State.passHeader (s : State) : State :=
  { s with size := s.hdr.length, idx := 0, phase := if s.hdr.length = 0 then .rxCks else .rxBody }

/-- What the step `RX_BODY` makes of the byte `b` at the head of the queue (R108). -/
def State.storeByte (s : State) (b : Byte) (rest : List Byte) : State :=
  { ((s.setRxq rest).writeBody s.idx.toNat b).accumulate b with
    idx := s.idx + 1, phase := if s.idx + 1 = s.size then .rxCks else .rxBody }

/-- The transitions of the block (R83 to R85, R102 to R110, R132, R162). -/
inductive BlockMove (s : State) : State → Prop where
  | stalled : s.Stalled → BlockMove s s
  | txHeader {b : Byte} : s.phase = .txHdr → s.txReady = true → s.txHeaderByte = some b → s.idx + 1 ≠ 5 →
      BlockMove s (s.emitCounted b)
  | txHeaderLast {b : Byte} : s.phase = .txHdr → s.txReady = true → s.txHeaderByte = some b → s.idx + 1 = 5 →
      BlockMove s { s.emitCounted b with idx := 0, phase := if s.txlen = 0 then .txCks else .txBody }
  | txBody {b : Byte} : s.phase = .txBody → s.txReady = true → s.payByte = some b → s.idx + 1 ≠ s.txlen →
      BlockMove s (s.emitCounted b)
  | txBodyLast {b : Byte} : s.phase = .txBody → s.txReady = true → s.payByte = some b → s.idx + 1 = s.txlen →
      BlockMove s { s.emitCounted b with phase := .txCks }
  | txChecksum : s.phase = .txCks → s.txReady = true → BlockMove s ((s.emit s.cks).complete .ok)
  | rxStart : s.phase = .rxWait → 6 ≤ s.rxq.length → BlockMove s { s with cks := 0x00, idx := 0, phase := .rxHdr }
  | timeout : s.DataMissing → s.timer = 0 → BlockMove s (s.fail .timeout)
  | rxHeader {b : Byte} {rest : List Byte} : s.phase = .rxHdr → s.rxq = b :: rest → s.idx.toNat < 5 →
      BlockMove s (s.latchByte b rest)
  | rxMalformed : s.phase = .rxChk → s.hdr.structureOk = false → BlockMove s (s.fail .malformedHeader)
  | rxWrongSequence : s.phase = .rxChk → s.hdr.structureOk = true → s.hdr.sequenceOk s.seq = false →
      BlockMove s (s.fail .sequenceMismatch)
  | rxTooLarge : s.phase = .rxChk → s.hdr.structureOk = true → s.hdr.sequenceOk s.seq = true →
      s.maxlen.toNat < s.hdr.length.toNat → BlockMove s ({ s with size := s.hdr.length }.fail .responseTooLarge)
  | rxHeaderPassed : s.phase = .rxChk → s.hdr.structureOk = true → s.hdr.sequenceOk s.seq = true →
      s.hdr.length.toNat ≤ s.maxlen.toNat → BlockMove s s.passHeader
  | rxBody {b : Byte} {rest : List Byte} : s.phase = .rxBody → s.rxq = b :: rest → s.idx.toNat < s.cfg.bufCap.val →
      BlockMove s (s.storeByte b rest)
  | rxAccepted {rest : List Byte} : s.phase = .rxCks → s.rxq = s.cks :: rest →
      BlockMove s ({ s.setRxq rest with respLen := s.size }.complete .ok)
  | rxMismatch {b : Byte} {rest : List Byte} : s.phase = .rxCks → s.rxq = b :: rest → b ≠ s.cks →
      BlockMove s ((s.setRxq rest).fail .checksumMismatch)
  | flDiscard {b : Byte} {rest : List Byte} : s.phase = .fl → s.rxq = b :: rest → s.fln - 1 ≠ 0 →
      BlockMove s { s.setRxq rest with fln := s.fln - 1 }
  | flLast {b : Byte} {rest : List Byte} : s.phase = .fl → s.rxq = b :: rest → s.fln - 1 = 0 →
      BlockMove s ({ s.setRxq rest with fln := s.fln - 1 }.complete .ok)

/-- A waiting point without its data lets the timer expire or waits on (R162). -/
theorem BlockMove.expire {s : State} (hd : s.DataMissing) : BlockMove s s.expire := by
  rcases expire_cases s with ⟨h0, h⟩ | ⟨h0, h⟩ <;> rw [h]
  · exact .timeout hd h0
  · refine .stalled ?_
    unfold State.Stalled
    unfold State.DataMissing at hd
    split <;> simp_all [State.DataMissing]

/-- Every transition the block takes is one of `BlockMove`. -/
theorem blockMove_of_internal {s t : State} (h : internal s = .next t) : BlockMove s t := by
  unfold internal at h
  split at h
  case h_1 hp => cases h; exact .stalled (by simp [State.Stalled, hp])
  case h_2 hp =>
    rcases stepTxHdr_cases h with ⟨hr, rfl⟩ | ⟨hr, b, hb, ⟨h5, rfl⟩ | ⟨h5, rfl⟩⟩
    · exact .stalled (by simpa [State.Stalled, hp] using hr)
    · exact .txHeaderLast hp hr hb h5
    · exact .txHeader hp hr hb h5
  case h_3 hp =>
    rcases stepTxBody_cases h with ⟨hr, rfl⟩ | ⟨hr, b, hb, ⟨hl, rfl⟩ | ⟨hl, rfl⟩⟩
    · exact .stalled (by simpa [State.Stalled, hp] using hr)
    · exact .txBodyLast hp hr hb hl
    · exact .txBody hp hr hb hl
  case h_4 hp =>
    rcases stepTxCks_cases h with ⟨hr, rfl⟩ | ⟨hr, rfl⟩
    · exact .stalled (by simpa [State.Stalled, hp] using hr)
    · exact .txChecksum hp hr
  case h_5 hp =>
    rcases stepRxWait_cases h with ⟨h6, rfl⟩ | ⟨h6, rfl⟩
    · exact .rxStart hp h6
    · exact .expire (by simpa [State.DataMissing, hp] using h6)
  case h_6 hp =>
    rcases stepRxHdr_cases h with ⟨hq, rfl⟩ | ⟨b, rest, hq, hi, rfl⟩
    · exact .stalled (by simpa [State.Stalled, hp] using hq)
    · rw [hp]; exact .rxHeader hp hq hi
  case h_7 hp =>
    rcases stepRxChk_cases s with ⟨h1, h'⟩ | ⟨h1, h2, h'⟩ | ⟨h1, h2, h3, h'⟩ | ⟨h1, h2, h3, h'⟩
    all_goals rw [h'] at h; cases h
    · exact .rxMalformed hp h1
    · exact .rxWrongSequence hp h1 h2
    · exact .rxTooLarge hp h1 h2 h3
    · exact .rxHeaderPassed hp h1 h2 h3
  case h_8 hp =>
    rcases stepRxBody_cases h with ⟨hq, rfl⟩ | ⟨b, rest, hq, hi, rfl⟩
    · exact .expire (by simpa [State.DataMissing, hp] using hq)
    · rw [hp]; exact .rxBody hp hq hi
  case h_9 hp =>
    rcases stepRxCks_cases h with ⟨hq, rfl⟩ | ⟨rest, hq, rfl⟩ | ⟨b, rest, hq, hb, rfl⟩
    · exact .expire (by simpa [State.DataMissing, hp] using hq)
    · exact .rxAccepted hp hq
    · exact .rxMismatch hp hq hb
  case h_10 hp =>
    rcases stepFl_cases h with ⟨hq, rfl⟩ | ⟨b, rest, hq, ⟨h0, rfl⟩ | ⟨h0, rfl⟩⟩
    · exact .stalled (by simpa [State.Stalled, hp] using hq)
    · exact .flLast hp hq h0
    · exact .flDiscard hp hq h0

/-- With no transition enabled the block's turn leaves the state as it is (log 28). -/
theorem internal_of_stalled {s : State} (h : s.Stalled) : internal s = .next s := by
  unfold internal
  cases hp : s.phase <;> simp only [State.Stalled, State.DataMissing, hp] at h
  case idle => rfl
  case txHdr => simp [stepTxHdr, h]
  case txBody => simp [stepTxBody, h]
  case txCks => simp [stepTxCks, h]
  case rxHdr => simp [stepRxHdr, h]
  case fl => simp [stepFl, h]
  case rxWait => simp [stepRxWait, minFrame, State.rxCount, State.expire, h.1, Nat.ne_of_gt h.2]
  case rxBody => simp [stepRxBody, State.expire, h.1, Nat.ne_of_gt h.2]
  case rxCks => simp [stepRxCks, State.expire, h.1, Nat.ne_of_gt h.2]

/-- An expired timer fails at a waiting point without its data (R162). -/
theorem internal_of_timeout {s : State} (h : s.DataMissing) (h0 : s.timer = 0) :
    internal s = .next (s.fail .timeout) := by
  unfold internal
  cases hp : s.phase <;> simp only [State.DataMissing, hp] at h
  case rxWait => simp [stepRxWait, minFrame, State.rxCount, State.expire, h, h0]
  case rxBody => simp [stepRxBody, State.expire, h, h0]
  case rxCks => simp [stepRxCks, State.expire, h, h0]

/-- The block takes each transition of `BlockMove` where it is enabled. -/
theorem internal_of_blockMove {s t : State} (h : BlockMove s t) : internal s = .next t := by
  cases h with
  | stalled hs => exact internal_of_stalled hs
  | timeout hd h0 => exact internal_of_timeout hd h0
  | txHeader hp hr hb h5 => simp only [internal, hp, stepTxHdr, hr, hb, if_true, State.emitCounted_idx, h5, if_false]
  | txHeaderLast hp hr hb h5 =>
    simp only [internal, hp, stepTxHdr, hr, hb, if_true, State.emitCounted_idx, h5, State.emitCounted_txlen]
    rfl
  | txBody hp hr hb hl =>
    simp only [internal, hp, stepTxBody, hr, hb, if_true, State.emitCounted_idx, hl, if_false, State.emitCounted_txlen]
  | txBodyLast hp hr hb hl =>
    simp only [internal, hp, stepTxBody, hr, hb, if_true, State.emitCounted_idx, hl, State.emitCounted_txlen]
  | txChecksum hp hr => simp [internal, hp, stepTxCks, hr]
  | rxStart hp h6 => simp [internal, hp, stepRxWait, minFrame, State.rxCount, h6]
  | rxHeader hp hq hi =>
    simp only [internal, hp, stepRxHdr, hq, hi, if_true, State.latchByte]
    split <;> simp_all
  | rxMalformed hp h1 => simp [internal, hp, stepRxChk, h1]
  | rxWrongSequence hp h1 h2 => simp [internal, hp, stepRxChk, h1, h2]
  | rxTooLarge hp h1 h2 h3 => simp [internal, hp, stepRxChk, h1, h2, BitVec.lt_def, h3]
  | rxHeaderPassed hp h1 h2 h3 =>
    simp [internal, hp, stepRxChk, h1, h2, BitVec.lt_def, Nat.not_lt.mpr h3, State.passHeader]
  | rxBody hp hq hi =>
    simp only [internal, hp, stepRxBody, hq, hi, if_true, State.storeByte]
    split <;> simp_all
  | rxAccepted hp hq => simp [internal, hp, stepRxCks, hq]
  | rxMismatch hp hq hb => simp [internal, hp, stepRxCks, hq, hb]
  | flDiscard hp hq h0 => simp [internal, hp, stepFl, hq, h0]
  | flLast hp hq h0 => simp [internal, hp, stepFl, hq, h0]

/-- `BlockMove` is what the block's turn does, read as a relation. -/
theorem internal_eq_next_iff {s t : State} : internal s = .next t ↔ BlockMove s t :=
  ⟨blockMove_of_internal, internal_of_blockMove⟩

/-! ### The command port's turn (R72) -/

/-- What the turn of the command port can do besides taking or putting back offers: nothing, where no offer is there,
the offer is held or it is a `NOP`; or, in `IDLE`, what an accepted or refused command does (R82, R101, R131, R156). -/
inductive CommandMove (s : State) : State → Prop where
  | nothing : CommandMove s s
  | refused {c : Code} : s.phase = .idle → c ≠ .busy → CommandMove s (s.refuse c)
  | sendStarted {a b : Half} {p : List Byte} : s.phase = .idle → a.toNat + b.toNat ≤ 65535 →
      CommandMove s { s with
        txlen := BitVec.ofNat 16 (a.toNat + b.toNat), pay := s.presented p (a.toNat + b.toNat)
        payFresh := if p.length < a.toNat + b.toNat then s.payFresh + 1 else s.payFresh
        tseq := s.seq, seq := s.seq + 1, cks := 0x00, idx := 0, status := .busy, phase := .txHdr }
  | awaitStarted {m : Half} {n : Nat} : s.phase = .idle → m.toNat ≤ s.cfg.bufCap.val →
      CommandMove s { s.forgetBody with
        maxlen := m, timer := n % 2 ^ s.cfg.timerW, respLen := 0, status := .busy, phase := .rxWait }
  | flushEmpty : s.phase = .idle → s.rxq = [] → CommandMove s { s with fln := 0, status := .ok }
  | flushStarted : s.phase = .idle → s.rxq ≠ [] →
      CommandMove s { s with fln := s.rxq.length, status := .busy, phase := .fl }

theorem Accepted.commandMove {s t : State} (ha : Accepted s t) (hp : s.phase = .idle) : CommandMove s t := by
  cases ha with
  | nothing => exact .nothing
  | refused c hc => exact .refused hp (by rcases hc with rfl | rfl <;> nofun)
  | send a b p =>
    rcases acceptSend_cases a b p s with ⟨_, he⟩ | ⟨hn, he⟩ <;> rw [he]
    · exact .refused hp nofun
    · exact .sendStarted hp hn
  | await m n =>
    rcases acceptAwait_cases m n s with ⟨_, he⟩ | ⟨hm, he⟩ <;> rw [he]
    · exact .refused hp nofun
    · exact .awaitStarted hp hm
  | flush =>
    rcases acceptFlush_cases s with ⟨hq, he⟩ | ⟨hq, he⟩ <;> rw [he]
    · exact .flushEmpty hp hq
    · exact .flushStarted hp hq

/-- Every turn of the command port changes what is offered and makes one of these moves. -/
theorem commandMove_of_commandTurn {s t : State} (h : commandTurn s = .next t) :
    ∃ offers, CommandMove { s with cmdPort := offers } t := by
  rcases commandTurn_cases h with ⟨-, rfl⟩ | ⟨-, offers, rfl⟩ | ⟨hp, offers, ha⟩
  · exact ⟨t.cmdPort, .nothing⟩
  · exact ⟨offers, .nothing⟩
  · exact ⟨offers, ha.commandMove hp⟩

end Sys2Proof.Machine
end

section
/-! The invariants of R28 along a step. `Inv` is cut in two: what it says of the stored data in every phase, and what it
says in the phase the block stands in. -/

namespace Sys2Proof.Machine

/-- The part of `Inv` that says the same in every phase (R18, R22 to R24). -/
structure StoredInv (s : State) : Prop where
  respLenInBuffer : s.respLen.toNat ≤ s.cfg.bufCap.val
  readableKnown : ∀ i, i < s.respLen.toNat → s.bodyKnown i = true
  bodyCanonical : Memory.wf s.body = true
  bodyInBuffer : ∀ c ∈ s.body, c.1 < s.cfg.bufCap.val
  timerWidth : s.timer < 2 ^ s.cfg.timerW
  queueCapacity : withinCap s.cfg.rxqCap s.rxq.length

/-- What holds during an `AWAIT` (R17, R22). -/
structure AwaitInv (s : State) : Prop where
  busy : s.status = .busy
  maxlenInBuffer : s.maxlen.toNat ≤ s.cfg.bufCap.val
  nothingReadable : s.respLen = 0

/-- The part of `Inv` that speaks of the phase the block stands in (R28). -/
def PhaseInv (s : State) : Prop :=
  match s.phase with
  | .idle => s.status ≠ .busy
  | .txHdr => s.status = .busy ∧ s.pay.length = s.txlen.toNat ∧ s.idx.toNat < 5
  | .txBody => s.status = .busy ∧ s.pay.length = s.txlen.toNat ∧ s.idx.toNat < s.txlen.toNat
  | .txCks => s.status = .busy ∧ s.pay.length = s.txlen.toNat
  | .rxWait | .rxChk => AwaitInv s
  | .rxHdr => AwaitInv s ∧ s.idx.toNat < 5 ∧ 6 ≤ s.rxq.length + s.idx.toNat
  | .rxBody => AwaitInv s ∧
      s.idx.toNat < s.size.toNat ∧ s.size.toNat ≤ s.maxlen.toNat ∧ ∀ i, i < s.idx.toNat → s.bodyKnown i = true
  | .rxCks => AwaitInv s ∧ s.size.toNat ≤ s.maxlen.toNat ∧ ∀ i, i < s.size.toNat → s.bodyKnown i = true
  | .fl => s.status = .busy ∧ 1 ≤ s.fln ∧ s.fln ≤ s.rxq.length

theorem Inv.stored {s : State} (h : Inv s) : StoredInv s :=
  { h with }

theorem Inv.busy {s : State} (h : Inv s) {p : Phase} (hp : s.phase = p) (hi : p ≠ .idle := by decide) :
    s.status = .busy :=
  h.busyStatus.mpr (hp ▸ hi)

theorem Inv.awaiting {s : State} (h : Inv s) {p : Phase} (hp : s.phase = p) (hr : p.isRx = true := by decide) :
    AwaitInv s where
  busy := h.busy hp (by rintro rfl; cases hr)
  maxlenInBuffer := h.maxlenInBuffer (hp ▸ hr)
  nothingReadable := h.nothingReadable (hp ▸ hr)

theorem PhaseInv.busyStatus {s : State} (h : PhaseInv s) : s.status = .busy ↔ s.phase ≠ .idle := by
  unfold PhaseInv at h
  split at h <;> simp_all [AwaitInv.busy]

theorem PhaseInv.awaiting {s : State} (h : PhaseInv s) (hr : s.phase.isRx = true) : AwaitInv s := by
  unfold PhaseInv at h
  split at h <;> simp_all [Phase.isRx]

theorem PhaseInv.payLength {s : State} (h : PhaseInv s) (ht : s.phase.isTx = true) : s.pay.length = s.txlen.toNat := by
  unfold PhaseInv at h
  split at h <;> simp_all [Phase.isTx]

/-- The two parts together are the whole. -/
theorem inv_of_parts {s : State} (hs : StoredInv s) (h : PhaseInv s) : Inv s :=
  { hs with
    busyStatus := h.busyStatus
    maxlenInBuffer := fun hr => (h.awaiting hr).maxlenInBuffer
    nothingReadable := fun hr => (h.awaiting hr).nothingReadable
    payLength := h.payLength
    headerBuffered := fun hp => by simp only [PhaseInv, hp] at h; exact h.2
    bodyIndex := fun hp => by simp only [PhaseInv, hp] at h; exact h.2
    bodyComplete := fun hp => by simp only [PhaseInv, hp] at h; exact h.2
    headerIndex := fun hp => by simp only [PhaseInv, hp] at h; exact h.2.2
    payIndex := fun hp => by simp only [PhaseInv, hp] at h; exact h.2.2
    flushCount := fun hp => by simp only [PhaseInv, hp] at h; exact h.2 }

theorem inv_of_idle {s : State} (hs : StoredInv s) (hp : s.phase = .idle) (hst : s.status ≠ .busy) : Inv s :=
  inv_of_parts hs (by simpa only [PhaseInv, hp] using hst)

/-! ### The stored data -/

/-- With nothing readable and no byte of `BODY` known, the timer and the queue are all that is left to say. -/
theorem storedInv_of_forgotten {s : State} (hr : s.respLen = 0) (hb : s.body = []) (ht : s.timer < 2 ^ s.cfg.timerW)
    (hq : withinCap s.cfg.rxqCap s.rxq.length) : StoredInv s where
  respLenInBuffer := by simp [hr]
  readableKnown := by simp [hr]
  bodyCanonical := by rw [hb]; rfl
  bodyInBuffer := by simp [hb]
  timerWidth := ht
  queueCapacity := hq

theorem StoredInv.fail {s : State} (h : StoredInv s) (c : Code) : StoredInv (s.fail c) :=
  storedInv_of_forgotten rfl rfl h.timerWidth h.queueCapacity

/-- A `pop` keeps within the capacity of the queue. -/
theorem StoredInv.pop {s : State} {b : Byte} {rest : List Byte} (h : StoredInv s) (hq : s.rxq = b :: rest) :
    StoredInv (s.setRxq rest) :=
  { h with
    queueCapacity := fun m hm => by
      have := h.queueCapacity m hm
      simp only [hq, List.length_cons] at this
      simp only [State.setRxq_rxq]; omega }

theorem StoredInv.writeBody {s : State} (h : StoredInv s) {i : Nat} (b : Byte) (hi : i < s.cfg.bufCap.val) :
    StoredInv (s.writeBody i b) :=
  { h with
    readableKnown := fun j hj => by simp [bodyKnown_writeBody, h.readableKnown j hj]
    bodyCanonical := writeCell_wf _ _ _ h.bodyCanonical
    bodyInBuffer := fun c hc => by
      rcases mem_writeCell hc with rfl | hc
      · exact hi
      · exact h.bodyInBuffer c hc }

theorem StoredInv.arriveAll {s : State} (h : StoredInv s) (bs : List Byte) : StoredInv (s.arriveAll bs) :=
  { h with queueCapacity := arriveAll_withinCap bs h.queueCapacity }

theorem StoredInv.tick {s : State} (h : StoredInv s) : StoredInv (tickEvent s) :=
  { h with
    timerWidth := by
      have := h.timerWidth
      rw [tickEvent_timer]; split <;> simp only [tickEvent_cfg] <;> omega }

/-! ### The block's turn -/

/-- A failed `AWAIT` leaves an idle block (R165). -/
theorem StoredInv.inv_fail {s : State} (h : StoredInv s) {c : Code} (hc : c ≠ .busy) : Inv (s.fail c) :=
  inv_of_idle (h.fail c) rfl hc

theorem Inv.latchByte {s : State} {b : Byte} {rest : List Byte} (h : Inv s) (hp : s.phase = .rxHdr)
    (hq : s.rxq = b :: rest) (hi : s.idx.toNat < 5) : Inv (s.latchByte b rest) := by
  have hs := h.stored
  have ha : AwaitInv s := h.awaiting hp
  have h6 := (h.headerBuffered hp).2
  rw [hq, List.length_cons] at h6
  refine inv_of_parts { hs.pop hq with } ?_
  by_cases h5 : s.idx + 1 = 5
  · simp only [PhaseInv, State.latchByte, h5, if_true]
    exact { ha with }
  · simp only [PhaseInv, State.latchByte, h5, if_false]
    exact ⟨{ ha with }, by bv_omega, by simp only [State.accumulate_rxq, State.setRxq_rxq]; bv_omega⟩

theorem Inv.passHeader {s : State} (h : Inv s) (hp : s.phase = .rxChk) (hl : s.hdr.length.toNat ≤ s.maxlen.toNat) :
    Inv s.passHeader := by
  have hs := h.stored
  have ha : AwaitInv s := h.awaiting hp
  refine inv_of_parts { hs with } ?_
  by_cases h0 : s.hdr.length = 0
  · simp only [PhaseInv, State.passHeader, h0, if_true]
    exact ⟨{ ha with }, by simp, by simp⟩
  · simp only [PhaseInv, State.passHeader, h0, if_false]
    exact ⟨{ ha with }, by bv_omega, hl, by simp⟩

theorem Inv.storeByte {s : State} {b : Byte} {rest : List Byte} (h : Inv s) (hp : s.phase = .rxBody)
    (hq : s.rxq = b :: rest) (hi : s.idx.toNat < s.cfg.bufCap.val) : Inv (s.storeByte b rest) := by
  have hs := h.stored
  have ha : AwaitInv s := h.awaiting hp
  obtain ⟨hlt, hle, hk⟩ := h.bodyIndex hp
  have hk' : ∀ i, i < (s.idx + 1).toNat → (s.writeBody s.idx.toNat b).bodyKnown i = true := fun i hlt' => by
    rw [bodyKnown_writeBody]
    by_cases hii : i = s.idx.toNat
    · simp [hii]
    · simp [hk i (by bv_omega)]
  refine inv_of_parts { (hs.pop hq).writeBody b hi with } ?_
  by_cases hd : s.idx + 1 = s.size
  · simp only [PhaseInv, State.storeByte, hd, if_true]
    exact ⟨{ ha with }, hle, hd ▸ hk'⟩
  · simp only [PhaseInv, State.storeByte, hd, if_false]
    have hlt' : (s.idx + 1).toNat < s.size.toNat := by bv_omega
    exact ⟨{ ha with }, hlt', hle, hk'⟩

/-- Every transition of the block keeps the invariants. -/
theorem BlockMove.inv {s t : State} (hm : BlockMove s t) (h : Inv s) : Inv t := by
  have hs := h.stored
  cases hm with
  | stalled _ => exact h
  | timeout _ _ | rxMalformed _ _ | rxWrongSequence _ _ _ => exact hs.inv_fail nofun
  | rxTooLarge _ _ _ _ => exact (show StoredInv { s with size := s.hdr.length } from { hs with }).inv_fail nofun
  | rxMismatch _ hq _ => exact (hs.pop hq).inv_fail nofun
  | txHeader hp _ _ h5 =>
    have hi := h.headerIndex hp
    exact inv_of_parts { hs with } (by
      simp only [PhaseInv, State.emitCounted_phase, hp]
      exact ⟨h.busy hp, h.payLength (by simp [hp, Phase.isTx]), by simp only [State.emitCounted_idx]; bv_omega⟩)
  | txHeaderLast hp _ _ _ =>
    have hl := h.payLength (by simp [hp, Phase.isTx])
    refine inv_of_parts { hs with } ?_
    by_cases h0 : s.txlen = 0
    · simp only [PhaseInv, h0, if_true]
      exact ⟨h.busy hp, hl⟩
    · simp only [PhaseInv, h0, if_false]
      exact ⟨h.busy hp, hl, show (0 : Half).toNat < s.txlen.toNat by bv_omega⟩
  | txBody hp _ _ hn =>
    have hi := h.payIndex hp
    exact inv_of_parts { hs with } (by
      simp only [PhaseInv, State.emitCounted_phase, hp]
      exact ⟨h.busy hp, h.payLength (by simp [hp, Phase.isTx]), by
        simp only [State.emitCounted_idx, State.emitCounted_txlen]; bv_omega⟩)
  | txBodyLast hp _ _ _ =>
    exact inv_of_parts { hs with } ⟨h.busy hp, h.payLength (by simp [hp, Phase.isTx])⟩
  | txChecksum hp _ => exact inv_of_idle { hs with } rfl nofun
  | rxStart hp h6 =>
    exact inv_of_parts { hs with } ⟨{ h.awaiting hp with }, Nat.succ_pos 4, h6⟩
  | rxHeader hp hq hi => exact h.latchByte hp hq hi
  | rxHeaderPassed hp _ _ hl => exact h.passHeader hp hl
  | rxBody hp hq hi => exact h.storeByte hp hq hi
  | rxAccepted hp hq =>
    obtain ⟨hle, hk⟩ := h.bodyComplete hp
    have hm := (h.awaiting hp).maxlenInBuffer
    exact inv_of_idle { hs.pop hq with respLenInBuffer := hle.trans hm, readableKnown := hk } rfl nofun
  | flDiscard hp hq h0 =>
    have hc := h.flushCount hp
    rw [hq, List.length_cons] at hc
    exact inv_of_parts { hs.pop hq with } (by
      simp only [PhaseInv, State.setRxq_phase, hp]
      exact ⟨h.busy hp, by omega, by simp only [State.setRxq_rxq]; omega⟩)
  | flLast hp hq h0 => exact inv_of_idle { hs.pop hq with } rfl nofun

/-! ### The command port's turn and the events -/

/-- `Inv` says nothing of the command port. -/
theorem Inv.withOffers {s : State} (h : Inv s) (offers : List (List CmdWord)) : Inv { s with cmdPort := offers } :=
  { h with }

theorem Inv.afterTurn {s : State} (h : Inv s) : Inv s.afterTurn :=
  { h with }

/-- Every move of the command port keeps the invariants. -/
theorem CommandMove.inv {s t : State} (hm : CommandMove s t) (h : Inv s) : Inv t := by
  have hs := h.stored
  cases hm with
  | nothing => exact h
  | refused hp hc => exact inv_of_idle { hs with } hp hc
  | sendStarted _ hn => exact inv_of_parts { hs with } ⟨rfl, by simp [ofNat_toNat_of_le hn], Nat.succ_pos 4⟩
  | awaitStarted _ hm =>
    exact inv_of_parts
      (storedInv_of_forgotten rfl rfl (Nat.mod_lt _ (Nat.two_pow_pos _)) hs.queueCapacity) ⟨rfl, hm, rfl⟩
  | flushEmpty hp _ => exact inv_of_idle { hs with } hp nofun
  | flushStarted _ hq => exact inv_of_parts { hs with } ⟨rfl, List.length_pos_iff.mpr hq, Nat.le_refl _⟩

theorem Inv.arriveAll {s : State} (h : Inv s) (bs : List Byte) : Inv (s.arriveAll bs) := by
  obtain ⟨more, hq⟩ := arriveAll_rxq_append s bs
  have hl : s.rxq.length ≤ (s.arriveAll bs).rxq.length := by rw [hq]; simp
  exact
    { h.stored.arriveAll bs, h with
      headerBuffered := fun hp => (h.headerBuffered hp).imp id fun h6 => h6.trans (Nat.add_le_add_right hl _)
      flushCount := fun hp => (h.flushCount hp).imp id fun hf => hf.trans hl }

/-- Settles O49, by whose turn it is: the block's transitions by `BlockMove.inv`, the command port's by
`CommandMove.inv`, an event by what it changes of the stored data. -/
theorem everyStepKeepsInv : Obligations.EveryStepKeepsInv := by
  intro s t h hst
  replace h := h.afterTurn
  rcases step_cases hst with
    ⟨-, hi⟩ | ⟨-, hc⟩ | ⟨w, d, -, rfl⟩ | ⟨bs, -, rfl⟩ | ⟨-, rfl⟩ | ⟨-, rfl⟩ | ⟨r, -, rfl⟩
  · exact (blockMove_of_internal hi).inv h
  · obtain ⟨offers, hm⟩ := commandMove_of_commandTurn hc
    exact hm.inv (h.withOffers offers)
  · exact { h with }
  · exact h.arriveAll bs
  · exact { h with timerWidth := h.stored.tick.timerWidth }
  · exact inv_of_idle (storedInv_of_forgotten rfl rfl (Nat.two_pow_pos _) h.queueCapacity) rfl nofun
  · exact { h with }

/-- Settles O51: at reset nothing is buffered, nothing is known of `BODY` and the block is idle. -/
theorem invAtReset : Obligations.InvAtReset :=
  inv_of_idle (storedInv_of_forgotten rfl rfl (Nat.two_pow_pos _) nofun) rfl nofun

/-! ### No fault (R13, R28) -/

/-- The block's turn faults only where an index has left `HDR`, `PAY` or `BODY` (log 23). -/
theorem internal_fault_cases {s : State} {r : Fault} (h : internal s = .fault r) :
    (s.phase = .txHdr ∧ s.txHeaderByte = none) ∨ (s.phase = .txBody ∧ s.payByte = none) ∨
      (s.phase = .rxHdr ∧ 5 ≤ s.idx.toNat) ∨ (s.phase = .rxBody ∧ s.cfg.bufCap.val ≤ s.idx.toNat) := by
  unfold internal at h
  cases hp : s.phase <;> simp only [hp] at h
  case idle => cases h
  case txHdr =>
    refine .inl ⟨rfl, ?_⟩
    cases hb : s.txHeaderByte with
    | none => rfl
    | some b => simp only [stepTxHdr, hb] at h; split_ifs at h
  case txBody =>
    refine .inr (.inl ⟨rfl, ?_⟩)
    cases hb : s.payByte with
    | none => rfl
    | some b => simp only [stepTxBody, hb] at h; split_ifs at h
  case rxHdr =>
    refine .inr (.inr (.inl ⟨rfl, ?_⟩))
    by_contra hi
    simp only [stepRxHdr, Nat.not_le.mp hi, if_true] at h
    split at h
    · cases h
    · split_ifs at h
  case rxBody =>
    refine .inr (.inr (.inr ⟨rfl, ?_⟩))
    by_contra hi
    simp only [stepRxBody, Nat.not_le.mp hi, if_true] at h
    split at h
    · cases h
    · split_ifs at h
  case txCks => simp only [stepTxCks] at h; split_ifs at h
  case rxWait => simp only [stepRxWait] at h; split_ifs at h
  case rxChk => simp only [stepRxChk] at h; split_ifs at h
  case rxCks =>
    simp only [stepRxCks] at h
    split at h
    · cases h
    · split_ifs at h
  case fl =>
    simp only [stepFl] at h
    split at h
    · cases h
    · split_ifs at h

theorem commandTurn_ne_fault (s : State) (r : Fault) : commandTurn s ≠ .fault r := by
  unfold commandTurn
  split
  · nofun
  · split
    · next op _ =>
      obtain ⟨t, ht⟩ := exec_total op { s with cmdPort := _ }
      rw [ht]; nofun
    · nofun

/-- The turns that are not the block's never fault. -/
theorem internal_of_takeTurn_fault {e : Turn} {s : State} {r : Fault} (h : takeTurn e s = .fault r) :
    e = .block ∧ internal s = .fault r := by
  cases e with
  | block => exact ⟨rfl, h⟩
  | command => exact absurd h (commandTurn_ne_fault s r)
  | read w =>
    obtain ⟨d, hd⟩ := readTurn_total w s
    rw [takeTurn, hd] at h; cases h
  | wire bytes => rw [takeTurn, wireTurn_eq] at h; cases h
  | arrive _ | tick | rst | txReady _ => cases h

/-- In `TX_HDR` there is a header byte at every index below 5 (R83). -/
theorem txHeaderByte_isSome {s : State} (h : s.idx.toNat < 5) : s.txHeaderByte.isSome = true := by
  simpa [State.txHeaderByte] using h

/-- Settles O52: a fault would need an index past the header, the payload or `BUF_CAP`, and `Inv` bounds each in the
phase that uses it. -/
theorem noIndexFault : Obligations.NoIndexFault := by
  intro s r h hf
  replace h := h.afterTurn
  rw [step_eq] at hf
  rcases internal_fault_cases (internal_of_takeTurn_fault hf).2 with ⟨hp, hb⟩ | ⟨hp, hb⟩ | ⟨hp, hi⟩ | ⟨hp, hi⟩
  · have := txHeaderByte_isSome (h.headerIndex hp)
    simp [hb] at this
  · have hlt := h.payIndex hp
    rw [← h.payLength (by rw [hp]; rfl)] at hlt
    exact absurd (List.getElem?_eq_none_iff.mp hb) (Nat.not_le.mpr hlt)
  · exact absurd (h.headerBuffered hp).1 (Nat.not_lt.mpr hi)
  · obtain ⟨hlt, hle, -⟩ := h.bodyIndex hp
    have hm := (h.awaiting hp).maxlenInBuffer
    omega

end Sys2Proof.Machine
end

section
/-! R28 (g): what `TXLOG` holds. A byte the framer emits is the next byte of its frame, and the last one makes the frame
well formed. -/

namespace Sys2Proof

/-- An encoded frame with a body the length field can carry is well formed (R69 (a)). -/
theorem frameWellFormed_encodeV2 (q : Byte) (cp data : List Byte) (h : cp.length + data.length ≤ 65535) :
    frameWellFormed (encodeV2 q cp data) = true := by
  have hx : xorAll (encodeV2 q cp data) = 0x00 := by
    rw [encodeV2_eq, xorAll_append]; simp
  have hl := ofNat_toNat_of_le h
  have hlen := encodeV2_length q cp data
  simp only [frameWellFormed, hx, hlen]
  simp only [encodeV2, headerBytes, List.cons_append, List.getD_cons_zero, List.getD_cons_succ, joinBytes_split, hl]
  simp [Nat.add_assoc]

end Sys2Proof

namespace Sys2Proof.Machine

/-! ### The frame of the `SEND` in progress -/

/-- The frame of the `SEND` in progress (R82, R83 to R85). -/
def State.txFrame (s : State) : List Byte := encodeV2 s.tseq s.pay []

section
variable {s : State} (hl : s.pay.length = s.txlen.toNat)
include hl

/-- Header, body and checksum of the frame in progress (R60, R68). -/
theorem txFrame_eq : s.txFrame =
    headerBytes s.tseq s.txlen ++ s.pay ++ [xorAll (headerBytes s.tseq s.txlen ++ s.pay)] := by
  have : BitVec.ofNat 16 s.pay.length = s.txlen := by rw [hl, BitVec.ofNat_toNat, BitVec.setWidth_eq]
  rw [State.txFrame, encodeV2_eq, List.append_nil, framePre, this]

/-- The header byte offered at `IDX` is the byte of the frame there (R83). -/
theorem txFrame_getElem?_header {b : Byte} (hb : s.txHeaderByte = some b) : s.txFrame[s.idx.toNat]? = some b := by
  rw [txFrame_eq hl, List.append_assoc, List.getElem?_append_left]
  · exact hb
  · exact (List.getElem?_eq_some_iff.mp hb).1

/-- The body byte offered at `IDX` is the byte of the frame behind the header (R84). -/
theorem txFrame_getElem?_body {b : Byte} (hb : s.payByte = some b) : s.txFrame[5 + s.idx.toNat]? = some b := by
  have hi : s.idx.toNat < s.pay.length := (List.getElem?_eq_some_iff.mp hb).1
  rw [txFrame_eq hl, List.append_assoc, List.getElem?_append_right (by simp),
    List.getElem?_append_left (by simpa using hi)]
  rw [headerBytes_length, Nat.add_sub_cancel_left]
  exact hb

/-- With header and body emitted, the checksum byte is all that is missing (R85). -/
theorem txFrame_eq_take_append : s.txFrame =
    s.txFrame.take (5 + s.txlen.toNat) ++ [xorAll (s.txFrame.take (5 + s.txlen.toNat))] := by
  have ht : s.txFrame.take (5 + s.txlen.toNat) = headerBytes s.tseq s.txlen ++ s.pay := by
    rw [txFrame_eq hl, ← hl]
    exact List.take_left' (by simp)
  rw [ht, txFrame_eq hl]

end

/-- The part of a list up to and including the element at `n`. -/
theorem take_succ_of_getElem? {f : List Byte} {n : Nat} {b : Byte} (h : f[n]? = some b) :
    f.take (n + 1) = f.take n ++ [b] := by
  rw [List.take_add_one, h, Option.toList_some]

/-! ### The emitted part, phase by phase -/

theorem emitted_txHdr {s : State} (hp : s.phase = .txHdr) : s.emitted = s.txFrame.take s.idx.toNat := by
  simp only [State.emitted, hp, State.txFrame]

theorem emitted_txBody {s : State} (hp : s.phase = .txBody) : s.emitted = s.txFrame.take (5 + s.idx.toNat) := by
  simp only [State.emitted, hp, State.txFrame]

theorem emitted_txCks {s : State} (hp : s.phase = .txCks) : s.emitted = s.txFrame.take (5 + s.txlen.toNat) := by
  simp only [State.emitted, hp, State.txFrame]

theorem emitted_of_not_tx {s : State} (h : s.phase.isTx = false) : s.emitted = [] := by
  unfold State.emitted
  split <;> simp_all [Phase.isTx]

/-- With the header byte offered at `IDX` one more byte of the frame is emitted. -/
theorem emitted_append_header {s : State} {b : Byte} (hi : Inv s) (hp : s.phase = .txHdr)
    (hb : s.txHeaderByte = some b) : s.emitted ++ [b] = s.txFrame.take (s.idx.toNat + 1) := by
  have hl : s.pay.length = s.txlen.toNat := hi.payLength (by rw [hp]; rfl)
  rw [take_succ_of_getElem? (txFrame_getElem?_header hl hb), emitted_txHdr hp]

/-- With the body byte offered at `IDX` one more byte of the frame is emitted. -/
theorem emitted_append_body {s : State} {b : Byte} (hi : Inv s) (hp : s.phase = .txBody)
    (hb : s.payByte = some b) : s.emitted ++ [b] = s.txFrame.take (5 + (s.idx.toNat + 1)) := by
  have hl : s.pay.length = s.txlen.toNat := hi.payLength (by rw [hp]; rfl)
  rw [← Nat.add_assoc, take_succ_of_getElem? (txFrame_getElem?_body hl hb), emitted_txBody hp]

/-! ### The invariant -/

section
variable {base : List Byte} {s t : State}

/-- A step that leaves log, emitted part and `CKS` alone. -/
theorem TxInv.of_same (h : TxInv base s) (hlog : t.txlog = s.txlog) (hem : t.emitted = s.emitted)
    (hc : t.phase.isTx = true → s.phase.isTx = true ∧ t.cks = s.cks) : TxInv base t where
  frames := by rw [hlog, hem]; exact h.frames
  checksum ht := by
    obtain ⟨hs, hc⟩ := hc ht
    rw [hem, hc]; exact h.checksum hs

/-- A step outside a `SEND` that emits nothing. -/
theorem TxInv.of_not_tx (h : TxInv base s) {p : Phase} (hp : s.phase = p) (ht : t.phase.isTx = false)
    (hlog : t.txlog = s.txlog) (hi : p.isTx = false := by decide) : TxInv base t :=
  h.of_same hlog (by rw [emitted_of_not_tx ht, emitted_of_not_tx (hp ▸ hi)]) (by simp [ht])

/-- A step that emits one byte and stays in the frame. -/
theorem TxInv.of_emit (h : TxInv base s) {b : Byte} (hp : s.phase.isTx = true) (hlog : t.txlog = s.txlog ++ [b])
    (hc : t.cks = s.cks ^^^ b) (hem : t.emitted = s.emitted ++ [b]) : TxInv base t where
  frames := by
    obtain ⟨fs, hw, hs⟩ := h.frames
    exact ⟨fs, hw, by rw [hlog, hem, hs]; simp⟩
  checksum _ := by rw [hc, hem, h.checksum hp]; simp

/-- The start of a frame. -/
theorem TxInv.of_start (h : TxInv base s) (hp : s.phase.isTx = false) (hlog : t.txlog = s.txlog)
    (hc : t.cks = 0x00) (hem : t.emitted = []) : TxInv base t where
  frames := by rw [hlog, hem, ← emitted_of_not_tx hp]; exact h.frames
  checksum _ := by rw [hc, hem]; rfl

/-- The end of a frame: what was emitted becomes one more frame. -/
theorem TxInv.of_frame (h : TxInv base s) {b : Byte} (hlog : t.txlog = s.txlog ++ [b]) (ht : t.phase.isTx = false)
    (hw : frameWellFormed (s.emitted ++ [b]) = true) : TxInv base t where
  frames := by
    obtain ⟨fs, hfs, hs⟩ := h.frames
    refine ⟨fs ++ [s.emitted ++ [b]], ?_, ?_⟩
    · simpa [or_imp, forall_and] using ⟨hfs, hw⟩
    · rw [hlog, hs, emitted_of_not_tx ht]; simp
  checksum hx := by rw [ht] at hx; cases hx

/-- Every transition of the block keeps R28 (g). -/
theorem BlockMove.txInv (hm : BlockMove s t) (hi : Inv s) (h : TxInv base s) : TxInv base t := by
  cases hm with
  | stalled _ => exact h
  | timeout hd _ => exact h.of_not_tx rfl rfl rfl (isTx_of_isRx hd.isRx)
  | rxMalformed hp _ | rxWrongSequence hp _ _ | rxTooLarge hp _ _ _ | rxMismatch hp _ _ | rxAccepted hp _
  | flLast hp _ _ | rxStart hp _ => exact h.of_not_tx hp rfl rfl
  | flDiscard hp _ _ => exact h.of_not_tx hp (by simp [hp, Phase.isTx]) rfl
  | rxHeader hp _ _ => exact h.of_not_tx hp (by dsimp only [State.latchByte]; split <;> rfl) rfl
  | rxHeaderPassed hp _ _ _ => exact h.of_not_tx hp (by dsimp only [State.passHeader]; split <;> rfl) rfl
  | rxBody hp _ _ => exact h.of_not_tx hp (by dsimp only [State.storeByte]; split <;> rfl) rfl
  | @txHeader b hp _ hb _ =>
    have hi5 := hi.headerIndex hp
    have hn : (s.idx + 1).toNat = s.idx.toNat + 1 := by bv_omega
    refine h.of_emit (by rw [hp]; rfl) rfl rfl ?_
    rw [emitted_append_header hi hp hb, ← hn]
    exact emitted_txHdr (s := s.emitCounted b) hp
  | txHeaderLast hp _ hb h5 =>
    have h4 : s.idx.toNat + 1 = 5 := by bv_omega
    refine h.of_emit (by rw [hp]; rfl) rfl rfl ?_
    rw [emitted_append_header hi hp hb, h4]
    by_cases h0 : s.txlen = 0
    · exact (emitted_txCks (if_pos h0)).trans (congrArg (fun n : Half => s.txFrame.take (5 + n.toNat)) h0)
    · exact emitted_txBody (if_neg h0)
  | @txBody b hp _ hb _ =>
    have hlt := hi.payIndex hp
    have hn : (s.idx + 1).toNat = s.idx.toNat + 1 := by bv_omega
    refine h.of_emit (by rw [hp]; rfl) rfl rfl ?_
    rw [emitted_append_body hi hp hb, ← hn]
    exact emitted_txBody (s := s.emitCounted b) hp
  | txBodyLast hp _ hb he =>
    have hlt := hi.payIndex hp
    have hn : s.idx.toNat + 1 = s.txlen.toNat := by bv_omega
    refine h.of_emit (by rw [hp]; rfl) rfl rfl ?_
    rw [emitted_append_body hi hp hb, hn]
    exact emitted_txCks rfl
  | txChecksum hp _ =>
    have hl : s.pay.length = s.txlen.toNat := hi.payLength (by rw [hp]; rfl)
    have hf : s.emitted ++ [s.cks] = s.txFrame := by
      rw [h.checksum (by rw [hp]; rfl), emitted_txCks hp, ← txFrame_eq_take_append hl]
    refine h.of_frame rfl rfl ?_
    rw [hf]
    exact frameWellFormed_encodeV2 _ _ _ (by rw [hl]; have := s.txlen.isLt; simp; omega)

/-- Every move of the command port keeps R28 (g). -/
theorem CommandMove.txInv (hm : CommandMove s t) (h : TxInv base s) : TxInv base t := by
  cases hm with
  | nothing => exact h
  | refused hp _ | flushEmpty hp _ => exact h.of_not_tx hp (by simp [hp, Phase.isTx]) rfl
  | sendStarted hp _ => exact h.of_start (by rw [hp]; rfl) rfl rfl (by simp [State.emitted])
  | awaitStarted hp _ | flushStarted hp _ => exact h.of_not_tx hp rfl rfl

end

/-- Settles O16, by whose turn it is: the block's transitions by `BlockMove.txInv`, the command port's by
`CommandMove.txInv`; an event other than the reset leaves log, emitted part and `CKS` alone. -/
theorem transmitLogIsFrames : Obligations.TransmitLogIsFrames := by
  intro base s t hi h hrst hst
  replace hi := hi.afterTurn
  replace h : TxInv base s.afterTurn := h.of_same rfl rfl fun hx => ⟨hx, rfl⟩
  rcases step_cases hst with
    ⟨-, hb⟩ | ⟨-, hc⟩ | ⟨w, d, -, rfl⟩ | ⟨bs, -, rfl⟩ | ⟨-, rfl⟩ | ⟨hr, -⟩ | ⟨r, -, rfl⟩
  · exact (blockMove_of_internal hb).txInv hi h
  · obtain ⟨offers, hm⟩ := commandMove_of_commandTurn hc
    exact hm.txInv (h.of_same rfl rfl fun hx => ⟨hx, rfl⟩)
  · exact h.of_same rfl rfl fun hx => ⟨hx, rfl⟩
  · exact h.of_same rfl rfl fun hx => ⟨hx, rfl⟩
  · exact h.of_same rfl rfl fun hx => ⟨hx, rfl⟩
  · exact absurd hr hrst
  · exact h.of_same rfl rfl fun hx => ⟨hx, rfl⟩

end Sys2Proof.Machine
end

section
/-! R14, R104, R109: on receive `CKS` is the exclusive-or of the bytes consumed. -/

namespace Sys2Proof.Machine

/-! ### The header registers (R16) -/

/-- What is latched so far and one more byte (R103). -/
theorem Header.bytes_latch {h : Header} {i : Nat} (b : Byte) (hi : i < 5) : (h.latch i b).bytes = h.bytes.set i b := by
  match i, hi with
  | 0, _ | 1, _ | 2, _ | 3, _ | 4, _ => rfl

theorem Header.take_succ_latch {h : Header} {i : Nat} (b : Byte) (hi : i < 5) :
    (h.latch i b).bytes.take (i + 1) = h.bytes.take i ++ [b] := by
  rw [bytes_latch b hi, take_succ_of_getElem? (List.getElem?_set_self hi), List.take_set_of_le (Nat.le_refl i)]

theorem Header.eq_of_bytes {g h : Header} (he : g.bytes = h.bytes) : g = h := by
  cases g; cases h
  simpa [Header.bytes] using he

/-! ### The invariant -/

/-- Outside the phases behind `RX_WAIT` the invariant says nothing. -/
theorem rxInv_of_none_consumed {s : State} (h : s.phase.isRx = false ∨ s.phase = .rxWait) : RxInv s where
  checksum hr hw := by rcases h with h | h <;> simp_all
  behindHeader hp := by rw [hp] at h; rcases h with h | h <;> cases h
  emptyBody hp := by rw [hp] at h; rcases h with h | h <;> cases h

section
variable {s t : State}

/-- A body byte stored at `IDX` joins what was stored before it (R108). -/
theorem map_bodyByte_writeBody (s : State) (n : Nat) (b : Byte) :
    (List.range (n + 1)).map (s.writeBody n b).bodyByte = (List.range n).map s.bodyByte ++ [b] := by
  rw [List.range_succ, List.map_append, List.map_singleton, bodyByte_writeBody, if_pos rfl]
  congr 1
  refine List.map_congr_left fun j hj => ?_
  rw [bodyByte_writeBody, if_neg (Nat.ne_of_lt (List.mem_range.mp hj))]

/-- A block transition that consumes one byte. -/
theorem RxInv.checksum_of_consume (h : RxInv s) (b : Byte) {c : List Byte} (hr : s.phase.isRx = true)
    (hw : s.phase ≠ .rxWait) (hc : c = s.consumed ++ [b]) : s.cks ^^^ b = xorAll c := by
  rw [hc, h.checksum hr hw]; simp

theorem RxInv.latchByte {b : Byte} {rest : List Byte} (h : RxInv s) (hi : Inv s) (hp : s.phase = .rxHdr)
    (hq : s.rxq = b :: rest) (hlt : s.idx.toNat < 5) : RxInv (s.latchByte b rest) := by
  have hn : (s.idx + 1).toNat = s.idx.toNat + 1 := by bv_omega
  have hcks : s.cks ^^^ b = xorAll ((s.hdr.latch s.idx.toNat b).bytes.take (s.idx + 1).toNat) :=
    h.checksum_of_consume b (by rw [hp]; rfl) (by rw [hp]; nofun)
      (by rw [hn, Header.take_succ_latch b hlt, State.consumed, hp])
  have h6 := (hi.headerBuffered hp).2
  rw [hq, List.length_cons] at h6
  by_cases h5 : s.idx + 1 = 5
  · rw [h5] at hcks
    simp only [State.latchByte, h5, if_true]
    refine ⟨fun _ _ => hcks, fun _ => ?_, nofun⟩
    exact List.ne_nil_of_length_pos (show 0 < rest.length by bv_omega)
  · simp only [State.latchByte, h5, if_false]
    exact ⟨fun _ _ => hcks, nofun, nofun⟩

theorem RxInv.passHeader (h : RxInv s) (hp : s.phase = .rxChk) : RxInv s.passHeader := by
  have hcks : s.cks = xorAll s.hdr.bytes := by
    rw [h.checksum (by rw [hp]; rfl) (by rw [hp]; nofun), State.consumed, hp]
  have hne := h.behindHeader hp
  by_cases h0 : s.hdr.length = 0
  · simp only [State.passHeader, h0, if_true]
    exact ⟨fun _ _ => hcks.trans (by simp [State.consumed]), nofun, fun _ _ => hne⟩
  · simp only [State.passHeader, h0, if_false]
    exact ⟨fun _ _ => hcks.trans (by simp [State.consumed]), nofun, nofun⟩

theorem RxInv.storeByte {b : Byte} {rest : List Byte} (h : RxInv s) (hp : s.phase = .rxBody)
    (hlt : s.idx.toNat < s.cfg.bufCap.val) : RxInv (s.storeByte b rest) := by
  have hcap := s.cfg.bufCap.isLt
  have hn : (s.idx + 1).toNat = s.idx.toNat + 1 := by bv_omega
  have hcks : s.cks ^^^ b =
      xorAll (s.hdr.bytes ++ (List.range (s.idx + 1).toNat).map (s.writeBody s.idx.toNat b).bodyByte) :=
    h.checksum_of_consume b (by rw [hp]; rfl) (by rw [hp]; nofun)
      (by rw [hn, map_bodyByte_writeBody, State.consumed, hp, List.append_assoc])
  by_cases hd : s.idx + 1 = s.size
  · rw [hd] at hcks
    simp only [State.storeByte, hd, if_true]
    exact ⟨fun _ _ => hcks, nofun, fun _ h0 => absurd (hd.trans h0) (by bv_omega)⟩
  · simp only [State.storeByte, hd, if_false]
    exact ⟨fun _ _ => hcks, nofun, nofun⟩

/-- Every transition of the block keeps the receive invariant. -/
theorem BlockMove.rxInv (hm : BlockMove s t) (hi : Inv s) (h : RxInv s) : RxInv t := by
  cases hm with
  | stalled _ => exact h
  | timeout _ _ | rxMalformed _ _ | rxWrongSequence _ _ _ | rxTooLarge _ _ _ _ | rxMismatch _ _ _ | rxAccepted _ _
  | flLast _ _ _ | txChecksum _ _ | txBodyLast _ _ _ _ => exact rxInv_of_none_consumed (.inl rfl)
  | txHeader hp _ _ _ | txBody hp _ _ _ | flDiscard hp _ _ =>
    exact rxInv_of_none_consumed (.inl (by simp [hp, Phase.isRx]))
  | txHeaderLast _ _ _ _ => exact rxInv_of_none_consumed (.inl (by dsimp only; split <;> rfl))
  | rxStart _ _ => exact ⟨fun _ _ => rfl, nofun, nofun⟩
  | rxHeader hp hq hlt => exact h.latchByte hi hp hq hlt
  | rxHeaderPassed hp _ _ _ => exact h.passHeader hp
  | rxBody hp _ hlt => exact h.storeByte hp hlt

/-- No move of the command port starts a frame on receive. -/
theorem CommandMove.rxInv (hm : CommandMove s t) (h : RxInv s) : RxInv t := by
  cases hm with
  | nothing => exact h
  | refused hp _ | flushEmpty hp _ => exact rxInv_of_none_consumed (.inl (by simp [hp, Phase.isRx]))
  | sendStarted _ _ | flushStarted _ _ => exact rxInv_of_none_consumed (.inl rfl)
  | awaitStarted _ _ => exact rxInv_of_none_consumed (.inr rfl)

/-- What arrives leaves a queue that was not empty so. -/
theorem RxInv.arriveAll (h : RxInv s) (bs : List Byte) : RxInv (s.arriveAll bs) := by
  obtain ⟨more, hq⟩ := arriveAll_rxq_append s bs
  have hne (hs : s.rxq ≠ []) : (s.arriveAll bs).rxq ≠ [] := by rw [hq]; simp [hs]
  exact { h with
    behindHeader := fun hp => hne (h.behindHeader hp)
    emptyBody := fun hp h0 => hne (h.emptyBody hp h0) }

end

/-- Settles O50, by whose turn it is: the block's transitions by `BlockMove.rxInv`; a command starts no frame
on receive, and an event changes neither `CKS` nor what was consumed. -/
theorem receiveChecksumAccumulates : Obligations.ReceiveChecksumAccumulates := by
  refine ⟨rxInv_of_none_consumed (.inl rfl), fun s t hi h hst => ?_⟩
  replace hi := hi.afterTurn
  replace h : RxInv s.afterTurn := { h with }
  rcases step_cases hst with
    ⟨-, hb⟩ | ⟨-, hc⟩ | ⟨w, d, -, rfl⟩ | ⟨bs, -, rfl⟩ | ⟨-, rfl⟩ | ⟨-, rfl⟩ | ⟨r, -, rfl⟩
  · exact (blockMove_of_internal hb).rxInv hi h
  · obtain ⟨offers, hm⟩ := commandMove_of_commandTurn hc
    exact hm.rxInv { h with }
  · exact { h with }
  · exact h.arriveAll bs
  · exact { h with }
  · exact rxInv_of_none_consumed (.inl rfl)
  · exact { h with }

end Sys2Proof.Machine
end

section
/-! R29: no step depends on an unspecified value. `SameLive` is cut in two as `Inv` is: agreement on what every phase
can read, and on what the phase the block stands in can read. -/

namespace Sys2Proof.Machine

/-- Agreement on what can be read in every phase. -/
structure SameStored (s t : State) : Prop where
  cfg : s.cfg = t.cfg
  seq : s.seq = t.seq
  phase : s.phase = t.phase
  status : s.status = t.status
  respLen : s.respLen = t.respLen
  rxq : s.rxq = t.rxq
  txlog : s.txlog = t.txlog
  txReady : s.txReady = t.txReady
  cmdPort : s.cmdPort = t.cmdPort
  rdOut : s.rdOut = t.rdOut
  agenda : s.agenda = t.agenda
  payFresh : s.payFresh = t.payFresh
  readable : ∀ i, i < s.respLen.toNat → s.bodyByte i = t.bodyByte i

/-- Agreement on what every phase of a `SEND` can read. -/
structure SameSend (s t : State) : Prop where
  cks : s.cks = t.cks
  tseq : s.tseq = t.tseq
  txlen : s.txlen = t.txlen
  pay : s.pay = t.pay

/-- Agreement on what every phase of an `AWAIT` can read. -/
structure SameAwait (s t : State) : Prop where
  timer : s.timer = t.timer
  maxlen : s.maxlen = t.maxlen

/-- Agreement on what the phase the block stands in can read. -/
def SamePhase (s t : State) : Prop :=
  match s.phase with
  | .idle => True
  | .txHdr | .txBody => SameSend s t ∧ s.idx = t.idx
  | .txCks => SameSend s t
  | .rxWait => SameAwait s t
  | .rxHdr => SameAwait s t ∧ s.cks = t.cks ∧ s.idx = t.idx ∧
      s.hdr.bytes.take s.idx.toNat = t.hdr.bytes.take s.idx.toNat
  | .rxChk => SameAwait s t ∧ s.cks = t.cks ∧ s.hdr = t.hdr
  | .rxBody => SameAwait s t ∧ s.cks = t.cks ∧ s.idx = t.idx ∧ s.size = t.size ∧
      ∀ i, i < s.idx.toNat → s.bodyByte i = t.bodyByte i
  | .rxCks => SameAwait s t ∧ s.cks = t.cks ∧ s.size = t.size ∧
      ∀ i, i < s.size.toNat → s.bodyByte i = t.bodyByte i
  | .fl => s.fln = t.fln

theorem SameLive.stored {s t : State} (h : SameLive s t) : SameStored s t :=
  { h with }

theorem SameLive.cks_eq {s t : State} (h : SameLive s t) {p : Phase} (hp : s.phase = p) (h1 : p ≠ .idle := by decide)
    (h2 : p ≠ .rxWait := by decide) (h3 : p ≠ .fl := by decide) : s.cks = t.cks :=
  h.cks (hp ▸ h1) (hp ▸ h2) (hp ▸ h3)

theorem SameLive.sending {s t : State} (h : SameLive s t) {p : Phase} (hp : s.phase = p)
    (ht : p.isTx = true := by decide) : SameSend s t where
  cks := h.cks_eq hp (by rintro rfl; cases ht) (by rintro rfl; cases ht) (by rintro rfl; cases ht)
  tseq := h.tseq (hp ▸ ht)
  txlen := h.txlen (hp ▸ ht)
  pay := h.pay (hp ▸ ht)

theorem SameLive.awaiting {s t : State} (h : SameLive s t) {p : Phase} (hp : s.phase = p)
    (hr : p.isRx = true := by decide) : SameAwait s t where
  timer := h.timer (hp ▸ hr)
  maxlen := h.maxlen (hp ▸ hr)

theorem SamePhase.sending {s t : State} (h : SamePhase s t) (hp : s.phase.isTx = true) : SameSend s t := by
  unfold SamePhase at h
  split at h <;> simp_all [Phase.isTx]

theorem SamePhase.awaiting {s t : State} (h : SamePhase s t) (hp : s.phase.isRx = true) : SameAwait s t := by
  unfold SamePhase at h
  split at h <;> simp_all [Phase.isRx]

theorem SamePhase.cks {s t : State} (h : SamePhase s t) (h1 : s.phase ≠ .idle) (h2 : s.phase ≠ .rxWait)
    (h3 : s.phase ≠ .fl) : s.cks = t.cks := by
  cases hp : s.phase <;> simp only [SamePhase, hp] at h
  case idle => exact absurd hp h1
  case rxWait => exact absurd hp h2
  case fl => exact absurd hp h3
  case txHdr | txBody => exact h.1.cks
  case txCks => exact h.cks
  case rxHdr | rxChk | rxBody | rxCks => exact h.2.1

/-- The two parts together are the whole. -/
theorem sameLive_of_parts {s t : State} (hs : SameStored s t) (h : SamePhase s t) : SameLive s t :=
  { hs with
    timer := fun hp => (h.awaiting hp).timer
    maxlen := fun hp => (h.awaiting hp).maxlen
    tseq := fun hp => (h.sending hp).tseq
    txlen := fun hp => (h.sending hp).txlen
    pay := fun hp => (h.sending hp).pay
    cks := h.cks
    idx := by
      rintro (hp | hp | hp | hp) <;> simp only [SamePhase, hp] at h
      · exact h.2
      · exact h.2
      · exact h.2.2.1
      · exact h.2.2.1
    hdrLatched := fun hp => by simp only [SamePhase, hp] at h; exact h.2.2.2
    hdr := fun hp => by simp only [SamePhase, hp] at h; exact h.2.2
    size := by
      rintro (hp | hp) <;> simp only [SamePhase, hp] at h
      · exact h.2.2.2.1
      · exact h.2.2.1
    fln := fun hp => by simpa only [SamePhase, hp] using h
    bodyReceived := fun hp => by simp only [SamePhase, hp] at h; exact h.2.2.2.2
    bodyComplete := fun hp => by simp only [SamePhase, hp] at h; exact h.2.2.2 }

theorem sameLive_of_idle {s t : State} (hs : SameStored s t) (hp : s.phase = .idle) : SameLive s t :=
  sameLive_of_parts hs (by simp only [SamePhase, hp])

/-! ### The shared operations -/

theorem SameStored.fail {s t : State} (h : SameStored s t) (c : Code) : SameStored (s.fail c) (t.fail c) :=
  { h with status := rfl, phase := rfl, respLen := rfl, readable := nofun }

/-- A failed `AWAIT` leaves nothing to read but what is stored (R165). -/
theorem SameStored.live_fail {s t : State} (h : SameStored s t) (c : Code) : SameLive (s.fail c) (t.fail c) :=
  sameLive_of_idle (h.fail c) rfl

theorem SameStored.emitCounted {s t : State} (h : SameStored s t) (b : Byte) :
    SameStored (s.emitCounted b) (t.emitCounted b) :=
  { h with txlog := congrArg (· ++ [b]) h.txlog }

theorem SameSend.emitCounted {s t : State} (h : SameSend s t) (b : Byte) :
    SameSend (s.emitCounted b) (t.emitCounted b) :=
  { h with cks := congrArg (· ^^^ b) h.cks }

theorem SameStored.setRxq {s t : State} (h : SameStored s t) (rest : List Byte) :
    SameStored (s.setRxq rest) (t.setRxq rest) :=
  { h with rxq := rfl }

/-- A byte written reads the same in both; every other byte as before. -/
theorem bodyByte_writeBody_congr {s t : State} {i j : Nat} (b : Byte) (h : j ≠ i → s.bodyByte j = t.bodyByte j) :
    (s.writeBody i b).bodyByte j = (t.writeBody i b).bodyByte j := by
  rw [bodyByte_writeBody, bodyByte_writeBody]
  split
  · rfl
  · next hne => exact h hne

/-! ### The block's turn -/

section
variable {s s' t : State}

theorem SameLive.stalled (h : SameLive s t) (hs : s.Stalled) : t.Stalled := by
  unfold State.Stalled State.DataMissing at hs ⊢
  rw [← h.phase, ← h.txReady, ← h.rxq]
  cases hp : s.phase <;> simp only [hp] at hs ⊢
  case rxWait | rxBody | rxCks => exact ⟨hs.1, (h.awaiting hp).timer ▸ hs.2⟩
  all_goals exact hs

theorem SameLive.dataMissing (h : SameLive s t) (hd : s.DataMissing) : t.DataMissing := by
  unfold State.DataMissing at hd ⊢
  rw [← h.phase, ← h.rxq]
  exact hd

theorem SameLive.txHeaderByte (h : SameLive s t) (hp : s.phase = .txHdr) : t.txHeaderByte = s.txHeaderByte := by
  have hsend := h.sending hp
  rw [State.txHeaderByte, State.txHeaderByte, hsend.tseq, hsend.txlen, h.idx (.inl hp)]

theorem SameLive.payByte (h : SameLive s t) (hp : s.phase = .txBody) : t.payByte = s.payByte := by
  have hsend := h.sending hp
  rw [State.payByte, State.payByte, hsend.pay, h.idx (.inr (.inl hp))]

theorem SameLive.latchByte {b : Byte} {rest : List Byte} (h : SameLive s t) (hp : s.phase = .rxHdr)
    (hlt : s.idx.toNat < 5) : SameLive (s.latchByte b rest) (t.latchByte b rest) := by
  have hi := h.idx (.inr (.inr (.inl hp)))
  have hcks := h.cks_eq hp
  have haw := h.awaiting hp
  have hn : (s.idx + 1).toNat = s.idx.toNat + 1 := by bv_omega
  have hlatch : (s.hdr.latch s.idx.toNat b).bytes.take (s.idx + 1).toNat =
      (t.hdr.latch s.idx.toNat b).bytes.take (s.idx + 1).toNat := by
    rw [hn, Header.take_succ_latch b hlt, Header.take_succ_latch b hlt, h.hdrLatched hp]
  refine sameLive_of_parts { h.stored.setRxq rest with phase := by simp only [State.latchByte, hi] } ?_
  by_cases h5 : s.idx + 1 = 5
  · simp only [SamePhase, State.latchByte, h5, if_true]
    refine ⟨{ haw with }, congrArg (· ^^^ b) hcks, ?_⟩
    rw [h5] at hlatch
    rw [← hi]
    exact Header.eq_of_bytes hlatch
  · simp only [SamePhase, State.latchByte, h5, if_false]
    refine ⟨{ haw with }, congrArg (· ^^^ b) hcks, congrArg (· + 1) hi, ?_⟩
    rw [← hi]
    exact hlatch

theorem SameLive.passHeader (h : SameLive s t) (hp : s.phase = .rxChk) : SameLive s.passHeader t.passHeader := by
  have hh := h.hdr hp
  have haw := h.awaiting hp
  have hcks := h.cks_eq hp
  refine sameLive_of_parts { h.stored with phase := by simp only [State.passHeader, hh] } ?_
  by_cases h0 : s.hdr.length = 0
  · simp only [SamePhase, State.passHeader, h0, if_true]
    exact ⟨{ haw with }, hcks, by rw [← hh, h0], nofun⟩
  · simp only [SamePhase, State.passHeader, h0, if_false]
    exact ⟨{ haw with }, hcks, trivial, by rw [hh], nofun⟩

theorem SameLive.storeByte {b : Byte} {rest : List Byte} (h : SameLive s t) (hp : s.phase = .rxBody)
    (hlt : s.idx.toNat < s.cfg.bufCap.val) : SameLive (s.storeByte b rest) (t.storeByte b rest) := by
  have hi := h.idx (.inr (.inr (.inr hp)))
  have hz := h.size (.inl hp)
  have hcks := h.cks_eq hp
  have haw := h.awaiting hp
  have hbyte {j : Nat} (hj : j ≠ s.idx.toNat → s.bodyByte j = t.bodyByte j) :
      (s.writeBody s.idx.toNat b).bodyByte j = (t.writeBody t.idx.toNat b).bodyByte j := by
    rw [← hi]; exact bodyByte_writeBody_congr b hj
  have hrecv (j : Nat) (hj : j < (s.idx + 1).toNat) :
      (s.writeBody s.idx.toNat b).bodyByte j = (t.writeBody t.idx.toNat b).bodyByte j :=
    hbyte fun hne => h.bodyReceived hp j (by bv_omega)
  refine sameLive_of_parts
    { h.stored.setRxq rest with
      phase := by simp only [State.storeByte, hi, hz]
      readable := fun j hj => hbyte fun _ => h.readable j hj } ?_
  by_cases hd : s.idx + 1 = s.size
  · simp only [SamePhase, State.storeByte, hd, if_true]
    exact ⟨{ haw with }, congrArg (· ^^^ b) hcks, hz, hd ▸ hrecv⟩
  · simp only [SamePhase, State.storeByte, hd, if_false]
    exact ⟨{ haw with }, congrArg (· ^^^ b) hcks, congrArg (· + 1) hi, hz, hrecv⟩

/-- From two states that agree the block takes the same transition, to two states that agree again. -/
theorem BlockMove.live (hm : BlockMove s s') (h : SameLive s t) : ∃ t', BlockMove t t' ∧ SameLive s' t' := by
  have hs := h.stored
  have hph {p : Phase} (hp : s.phase = p) : t.phase = p := h.phase ▸ hp
  have hq {q : List Byte} (hq : s.rxq = q) : t.rxq = q := h.rxq ▸ hq
  have hr (hr : s.txReady = true) : t.txReady = true := h.txReady ▸ hr
  cases hm with
  | stalled hst => exact ⟨t, .stalled (h.stalled hst), h⟩
  | timeout hd h0 => exact ⟨_, .timeout (h.dataMissing hd) (h.timer hd.isRx ▸ h0), hs.live_fail _⟩
  | @txHeader b hp hrd hb h5 =>
    have hi := h.idx (.inl hp)
    refine ⟨_, .txHeader (hph hp) (hr hrd) ((h.txHeaderByte hp).trans hb) (hi ▸ h5),
      sameLive_of_parts (hs.emitCounted b) ?_⟩
    simp only [SamePhase, State.emitCounted_phase, hp]
    exact ⟨(h.sending hp).emitCounted b, congrArg (· + 1) hi⟩
  | @txHeaderLast b hp hrd hb h5 =>
    have hsend := (h.sending hp).emitCounted b
    have hi := h.idx (.inl hp)
    refine ⟨_, .txHeaderLast (hph hp) (hr hrd) ((h.txHeaderByte hp).trans hb) (hi ▸ h5),
      sameLive_of_parts { hs.emitCounted b with phase := by rw [show s.txlen = t.txlen from hsend.txlen] } ?_⟩
    by_cases h0 : s.txlen = 0
    · simp only [SamePhase, h0, if_true]
      exact { hsend with }
    · simp only [SamePhase, h0, if_false]
      exact ⟨{ hsend with }, trivial⟩
  | @txBody b hp hrd hb hne =>
    have hsend := h.sending hp
    have hi := h.idx (.inr (.inl hp))
    refine ⟨_, .txBody (hph hp) (hr hrd) ((h.payByte hp).trans hb) (hi ▸ hsend.txlen ▸ hne),
      sameLive_of_parts (hs.emitCounted b) ?_⟩
    simp only [SamePhase, State.emitCounted_phase, hp]
    exact ⟨hsend.emitCounted b, congrArg (· + 1) hi⟩
  | @txBodyLast b hp hrd hb he =>
    have hsend := h.sending hp
    refine ⟨_, .txBodyLast (hph hp) (hr hrd) ((h.payByte hp).trans hb)
      (h.idx (.inr (.inl hp)) ▸ hsend.txlen ▸ he), sameLive_of_parts { hs.emitCounted b with phase := rfl } ?_⟩
    exact { hsend.emitCounted b with }
  | txChecksum hp hrd =>
    have hc := (h.sending hp).cks
    exact ⟨_, .txChecksum (hph hp) (hr hrd), sameLive_of_idle
      { hs with status := rfl, phase := rfl, txlog := by simp [hs.txlog, hc] } rfl⟩
  | rxStart hp h6 =>
    exact ⟨_, .rxStart (hph hp) (h.rxq ▸ h6), sameLive_of_parts { hs with phase := rfl }
      ⟨{ h.awaiting hp with }, rfl, rfl, rfl⟩⟩
  | rxHeader hp hb hlt =>
    exact ⟨_, .rxHeader (hph hp) (hq hb) (h.idx (.inr (.inr (.inl hp))) ▸ hlt), h.latchByte hp hlt⟩
  | rxMalformed hp h1 => exact ⟨_, .rxMalformed (hph hp) (h.hdr hp ▸ h1), hs.live_fail _⟩
  | rxWrongSequence hp h1 h2 =>
    exact ⟨_, .rxWrongSequence (hph hp) (h.hdr hp ▸ h1) (h.hdr hp ▸ h.seq ▸ h2), hs.live_fail _⟩
  | rxTooLarge hp h1 h2 h3 =>
    have hh := h.hdr hp
    have hm := (h.awaiting hp).maxlen
    exact ⟨_, .rxTooLarge (hph hp) (hh ▸ h1) (hh ▸ h.seq ▸ h2) (hh ▸ hm ▸ h3),
      (show SameStored { s with size := s.hdr.length } { t with size := t.hdr.length } from { hs with }).live_fail _⟩
  | rxHeaderPassed hp h1 h2 h3 =>
    have hh := h.hdr hp
    have hm := (h.awaiting hp).maxlen
    exact ⟨_, .rxHeaderPassed (hph hp) (hh ▸ h1) (hh ▸ h.seq ▸ h2) (hh ▸ hm ▸ h3), h.passHeader hp⟩
  | rxBody hp hb hlt =>
    have hi := h.idx (.inr (.inr (.inr hp)))
    exact ⟨_, .rxBody (hph hp) (hq hb) (hi ▸ h.cfg ▸ hlt), h.storeByte hp hlt⟩
  | @rxAccepted rest hp hb =>
    have hcks := h.cks_eq hp
    have hz := h.size (.inr hp)
    exact ⟨_, .rxAccepted (rest := rest) (hph hp) ((hq hb).trans (by rw [hcks])), sameLive_of_idle
      { hs.setRxq rest with status := rfl, phase := rfl, respLen := hz, readable := h.bodyComplete hp } rfl⟩
  | rxMismatch hp hb hne =>
    have hcks := h.cks_eq hp
    exact ⟨_, .rxMismatch (hph hp) (hq hb) (hcks ▸ hne), (hs.setRxq _).live_fail _⟩
  | flDiscard hp hb h0 =>
    have hf := h.fln hp
    refine ⟨_, .flDiscard (hph hp) (hq hb) (hf ▸ h0), sameLive_of_parts { hs.setRxq _ with } ?_⟩
    simp only [SamePhase, State.setRxq_phase, hp]
    rw [hf]
  | flLast hp hb h0 =>
    exact ⟨_, .flLast (hph hp) (hq hb) (h.fln hp ▸ h0), sameLive_of_idle
      { hs.setRxq _ with status := rfl, phase := rfl } rfl⟩

theorem internal_live (hm : internal s = .next s') (h : SameLive s t) :
    ∃ t', internal t = .next t' ∧ SameLive s' t' := by
  obtain ⟨t', ht, hl⟩ := (blockMove_of_internal hm).live h
  exact ⟨t', internal_of_blockMove ht, hl⟩

/-! ### Operations -/

theorem SameLive.hold (h : SameLive s t) (ws : List CmdWord) : SameLive (s.hold ws) (t.hold ws) :=
  { h with cmdPort := congrArg (ws :: ·) h.cmdPort }

theorem SameLive.answer (h : SameLive s t) (d : Option Half) : SameLive (s.answer d) (t.answer d) :=
  { h with rdOut := rfl }

theorem SameLive.arriveAll (h : SameLive s t) (bs : List Byte) : SameLive (s.arriveAll bs) (t.arriveAll bs) :=
  { h with rxq := by rw [State.arriveAll_rxq, State.arriveAll_rxq, h.cfg, h.rxq] }

theorem SameLive.refuse (h : SameLive s t) (c : Code) : SameLive (s.refuse c) (t.refuse c) :=
  { h with status := rfl }

/-- Agreement passes through the command port's hold and acceptance. -/
theorem whenIdle_live {ws : List CmdWord} {f : State → State} (hm : whenIdle ws s f = .next s') (h : SameLive s t)
    (hf : s.phase = .idle → SameLive (f s) (f t)) : ∃ t', whenIdle ws t f = .next t' ∧ SameLive s' t' := by
  rcases whenIdle_cases hm with ⟨hp, rfl⟩ | ⟨hp, rfl⟩
  · exact ⟨_, whenIdle_idle ws f (h.phase ▸ hp), hf hp⟩
  · exact ⟨_, whenIdle_busy ws f (h.phase ▸ hp), h.hold ws⟩

theorem SameLive.acceptSend (h : SameLive s t) (a b : Half) (p : List Byte) :
    SameLive (acceptSend a b p s) (acceptSend a b p t) := by
  rcases acceptSend_cases a b p s with ⟨h1, hs⟩ | ⟨h1, hs⟩ <;>
    rcases acceptSend_cases a b p t with ⟨h2, ht⟩ | ⟨h2, ht⟩ <;> rw [hs, ht]
  · exact h.refuse _
  · omega
  · omega
  · exact sameLive_of_parts
      { h.stored with
        seq := congrArg (· + 1) h.seq, status := rfl, phase := rfl, payFresh := by rw [h.payFresh] }
      ⟨⟨rfl, h.seq, rfl, by simp only [State.presented, h.payFresh]⟩, rfl⟩

theorem SameLive.acceptAwait (h : SameLive s t) (m : Half) (n : Nat) :
    SameLive (acceptAwait m n s) (acceptAwait m n t) := by
  have hcap : s.cfg.bufCap = t.cfg.bufCap := by rw [h.cfg]
  rcases acceptAwait_cases m n s with ⟨h1, hs⟩ | ⟨h1, hs⟩ <;>
    rcases acceptAwait_cases m n t with ⟨h2, ht⟩ | ⟨h2, ht⟩ <;> rw [hs, ht]
  · exact h.refuse _
  · omega
  · omega
  · exact sameLive_of_parts { h.stored with respLen := rfl, status := rfl, phase := rfl, readable := nofun }
      ⟨by rw [h.cfg], rfl⟩

theorem SameLive.acceptFlush (h : SameLive s t) (hp : s.phase = .idle) :
    SameLive (acceptFlush s) (acceptFlush t) := by
  rcases acceptFlush_cases s with ⟨h1, hs⟩ | ⟨h1, hs⟩ <;>
    rcases acceptFlush_cases t with ⟨h2, ht⟩ | ⟨h2, ht⟩ <;> rw [hs, ht]
  · exact sameLive_of_idle { h.stored with status := rfl } hp
  · exact absurd (h.rxq ▸ h1) h2
  · exact absurd (h.rxq ▸ h2) h1
  · exact sameLive_of_parts { h.stored with status := rfl, phase := rfl } (congrArg List.length h.rxq)

/-- What `RDSTAT` reads. -/
theorem SameLive.statWord (h : SameLive s t) : s.statWord = t.statWord := by
  rw [State.statWord, State.statWord, State.busy, State.busy, h.phase, h.status]

/-- What `RDBODY` answers (R137). -/
theorem SameLive.rdbodyValue (h : SameLive s t) (i : Half) :
    (if i < s.respLen then some ((s.bodyByte i.toNat).setWidth 16) else none) =
      if i < t.respLen then some ((t.bodyByte i.toNat).setWidth 16) else none := by
  rw [← h.respLen]
  split
  · next hi => rw [h.readable _ hi]
  · rfl

/-- An operation issued in two states that agree leads to two states that agree again. -/
theorem exec_live {i : Instr} (hm : exec i s = .next s') (h : SameLive s t) :
    ∃ t', exec i t = .next t' ∧ SameLive s' t' := by
  cases i
  case frameV2Header q l b c => cases hm; exact ⟨_, rfl, h.arriveAll _⟩
  case nop => exact whenIdle_live hm h fun _ => h
  case send a b p => exact whenIdle_live hm h fun _ => h.acceptSend a b p
  case await m n => exact whenIdle_live hm h fun _ => h.acceptAwait m n
  case flush => exact whenIdle_live hm h h.acceptFlush
  case xact a b p m n => exact whenIdle_live hm h fun _ => (h.hold _).acceptSend a b p
  case synctry a p m n => exact whenIdle_live hm h ((h.hold _).hold _).acceptFlush
  case rdseq => cases hm; exact ⟨_, rfl, h.seq ▸ h.answer _⟩
  case rdstat => cases hm; exact ⟨_, rfl, h.statWord ▸ h.answer _⟩
  case rdlen => cases hm; exact ⟨_, rfl, h.respLen ▸ h.answer _⟩
  case rdbody i =>
    cases hm
    exact ⟨_, rfl, h.rdbodyValue i ▸ h.answer _⟩
  all_goals exact whenIdle_live hm h fun _ => h.refuse _

theorem commandTurn_live (hm : commandTurn s = .next s') (h : SameLive s t) :
    ∃ t', commandTurn t = .next t' ∧ SameLive s' t' := by
  unfold commandTurn at hm ⊢
  rw [← h.cmdPort]
  split at hm
  · cases hm; exact ⟨t, rfl, h⟩
  · next ws later hc =>
    split at hm
    · exact exec_live hm { h with cmdPort := rfl }
    · cases hm

theorem wireTurn_live (bs : List Byte) (hm : wireTurn bs s = .next s') (h : SameLive s t) :
    ∃ t', wireTurn bs t = .next t' ∧ SameLive s' t' := by
  rw [wireTurn_eq] at hm
  cases hm
  exact ⟨_, wireTurn_eq bs t, h.arriveAll bs⟩

theorem SameLive.tick (h : SameLive s t) : SameLive (tickEvent s) (tickEvent t) :=
  { h with
    timer := fun hp => by
      have hp' : s.phase.isRx = true := hp
      rw [tickEvent_timer, tickEvent_timer, ← h.phase, h.timer hp'] }

theorem SameLive.rst (h : SameLive s t) : SameLive (rstEvent s) (rstEvent t) :=
  sameLive_of_idle
    { h.stored with
      seq := by rw [rstEvent_seq, rstEvent_seq, h.cfg]
      phase := rfl, status := rfl, respLen := rfl, readable := nofun } rfl

/-- The same turn taken in two states that agree leads to two states that agree again. -/
theorem takeTurn_live {e : Turn} (hm : takeTurn e s = .next s') (h : SameLive s t) :
    ∃ t', takeTurn e t = .next t' ∧ SameLive s' t' := by
  cases e with
  | block => exact internal_live hm h
  | command => exact commandTurn_live hm h
  | read w => exact exec_live hm h
  | wire bs => exact wireTurn_live bs hm h
  | arrive b => cases hm; exact ⟨_, rfl, h.arriveAll [b]⟩
  | tick => cases hm; exact ⟨_, rfl, h.tick⟩
  | rst => cases hm; exact ⟨_, rfl, h.rst⟩
  | txReady r => cases hm; exact ⟨_, rfl, { h with txReady := rfl }⟩

theorem SameLive.turn (h : SameLive s t) : t.turn = s.turn := by
  rw [State.turn, State.turn, defaultTurn, defaultTurn, h.agenda, h.phase]

theorem SameLive.afterTurn (h : SameLive s t) : SameLive s.afterTurn t.afterTurn :=
  { h with agenda := congrArg List.tail h.agenda }

end

/-- Settles O57: two states that agree give the turn to the same agent, and each kind of turn keeps the agreement. -/
theorem unspecifiedNeverMatters : Obligations.UnspecifiedNeverMatters := by
  intro s s' t h hst
  rw [step_eq] at hst
  rw [step_eq, h.turn]
  exact takeTurn_live hst h.afterTurn

end Sys2Proof.Machine
end

section
/-! Who writes `SEQ` (R11), who takes bytes from `RXQ` (R24), what keeps the readable body (R22), and what comes from
outside (R24, R42). -/

namespace Sys2Proof.Machine

section
variable {s t : State}

/-! ### `SEQ` (R11) -/

/-- The block never writes `SEQ`. -/
theorem BlockMove.seq_eq (hm : BlockMove s t) : t.seq = s.seq := by
  cases hm <;> rfl

/-- Of the commands only an accepted `SEND` writes `SEQ`, and it keeps the old value as its frame's (R82). -/
theorem CommandMove.seq_cases (hm : CommandMove s t) :
    t.seq = s.seq ∨ (s.phase = .idle ∧ t.phase = .txHdr ∧ t.tseq = s.seq ∧ t.seq = s.seq + 1) := by
  cases hm with
  | sendStarted hp _ => exact .inr ⟨hp, rfl, rfl, rfl⟩
  | nothing | refused _ _ | awaitStarted _ _ | flushEmpty _ _ | flushStarted _ _ => exact .inl rfl

/-! ### `RXQ` (R24) -/

/-- A transition of the block leaves `RXQ` or pops its head, in one of four phases. -/
theorem BlockMove.rxq_cases (hm : BlockMove s t) :
    t.rxq = s.rxq ∨ (s.phase ∈ [.rxHdr, .rxBody, .rxCks, .fl] ∧ ∃ b, s.rxq = b :: t.rxq) := by
  cases hm with
  | stalled _ | timeout _ _ | txHeader _ _ _ _ | txHeaderLast _ _ _ _ | txBody _ _ _ _ | txBodyLast _ _ _ _
  | txChecksum _ _ | rxStart _ _ | rxMalformed _ _ | rxWrongSequence _ _ _ | rxTooLarge _ _ _ _
  | rxHeaderPassed _ _ _ _ => exact .inl rfl
  | rxHeader hp hq _ | rxBody hp hq _ | rxAccepted hp hq | rxMismatch hp hq _ | flDiscard hp hq _ | flLast hp hq _ =>
    exact .inr ⟨by simp [hp], _, hq⟩

/-- No command takes bytes from `RXQ`. -/
theorem CommandMove.rxq_eq (hm : CommandMove s t) : t.rxq = s.rxq := by
  cases hm <;> rfl

/-! ### The readable body (R22, R188) -/

/-- `RESP_LEN` and every byte of `BODY` are what they were. -/
def SameBody (s t : State) : Prop :=
  t.respLen = s.respLen ∧ ∀ i, t.bodyByte i = s.bodyByte i

/-- Outside an `AWAIT` the block leaves the body of the last response alone. -/
theorem BlockMove.sameBody (hm : BlockMove s t) (hr : s.phase.isRx = false) : SameBody s t := by
  have hn {p : Phase} (hp : s.phase = p) (hi : p.isRx = true) : False := by simp [hp, hi] at hr
  cases hm with
  | stalled _ | txHeader _ _ _ _ | txHeaderLast _ _ _ _ | txBody _ _ _ _ | txBodyLast _ _ _ _ | txChecksum _ _
  | flDiscard _ _ _ | flLast _ _ _ => exact ⟨rfl, fun _ => rfl⟩
  | timeout hd _ => exact (hn rfl hd.isRx).elim
  | rxStart hp _ | rxHeader hp _ _ | rxMalformed hp _ | rxWrongSequence hp _ _ | rxTooLarge hp _ _ _
  | rxHeaderPassed hp _ _ _ | rxBody hp _ _ | rxAccepted hp _ | rxMismatch hp _ _ => exact (hn hp rfl).elim

/-- Of the commands only an accepted `AWAIT` touches the body. -/
theorem CommandMove.sameBody (hm : CommandMove s t) (hr : t.phase.isRx = false) : SameBody s t := by
  cases hm with
  | awaitStarted _ _ => cases hr
  | nothing | refused _ _ | sendStarted _ _ | flushEmpty _ _ | flushStarted _ _ => exact ⟨rfl, fun _ => rfl⟩

/-! ### Arrivals (R24, R42) -/

/-- Where the queue has room everything that arrives joins it at its tail, and nothing else changes. -/
theorem arriveAll_of_room {bs : List Byte} (h : withinCap s.cfg.rxqCap (s.rxq.length + bs.length)) :
    s.arriveAll bs = { s with rxq := s.rxq ++ bs } := by
  have hq : bs.foldl (arriveIn s.cfg.rxqCap) s.rxq = s.rxq ++ bs := by
    cases hc : s.cfg.rxqCap with
    | none => exact foldl_arriveIn_none _ _
    | some n => exact foldl_arriveIn_room n _ _ (h n hc)
  rw [State.arriveAll, hq]

/-- A byte that arrives at a full queue is not queued (log 16). -/
theorem arriveAll_singleton_of_full {n : Nat} (b : Byte) (hc : s.cfg.rxqCap = some n) (h : n ≤ s.rxq.length) :
    s.arriveAll [b] = s := by
  simp [State.arriveAll, hc, arriveIn, Nat.not_lt.mpr h]

end

/-- Settles O53, by whose turn it is. -/
theorem seqWrittenBySendOnly : Obligations.SeqWrittenBySendOnly := by
  intro s t hst
  rcases step_cases hst with
    ⟨-, hb⟩ | ⟨ht, hc⟩ | ⟨w, d, -, rfl⟩ | ⟨bs, -, rfl⟩ | ⟨-, rfl⟩ | ⟨ht, rfl⟩ | ⟨r, -, rfl⟩
  · exact .inl (blockMove_of_internal hb).seq_eq
  · obtain ⟨offers, hm⟩ := commandMove_of_commandTurn hc
    exact hm.seq_cases.imp id fun hsend => .inr ⟨ht, hsend⟩
  · exact .inl rfl
  · exact .inl rfl
  · exact .inl rfl
  · exact .inr (.inl ⟨ht, rfl⟩)
  · exact .inl rfl

/-- Settles O54, by whose turn it is: the block pops at most the head, arrivals append, every other turn leaves the
queue. -/
theorem onlyPopRemovesBytes : Obligations.OnlyPopRemovesBytes := by
  intro s t hst
  have hsame {u : State} (h : u.rxq = s.rxq) : ∃ more, u.rxq = s.rxq ++ more := ⟨[], by rw [h, List.append_nil]⟩
  rcases step_cases hst with
    ⟨ht, hb⟩ | ⟨-, hc⟩ | ⟨w, d, -, rfl⟩ | ⟨bs, -, rfl⟩ | ⟨-, rfl⟩ | ⟨-, rfl⟩ | ⟨r, -, rfl⟩
  · rcases (blockMove_of_internal hb).rxq_cases with hq | ⟨hp, hq⟩
    · exact .inl (hsame hq)
    · exact .inr ⟨ht, hp, hq⟩
  · obtain ⟨offers, hm⟩ := commandMove_of_commandTurn hc
    exact .inl (hsame hm.rxq_eq)
  · exact .inl (hsame rfl)
  · exact .inl (arriveAll_rxq_append s.afterTurn bs)
  · exact .inl (hsame rfl)
  · exact .inl (hsame rfl)
  · exact .inl (hsame rfl)

/-- Settles O55, by whose turn it is: outside an `AWAIT` only its acceptance and the reset touch the body. -/
theorem bodyStaysReadable : Obligations.BodyStaysReadable := by
  intro s t hst hr hr' hrst
  rcases step_cases hst with
    ⟨-, hb⟩ | ⟨-, hc⟩ | ⟨w, d, -, rfl⟩ | ⟨bs, -, rfl⟩ | ⟨-, rfl⟩ | ⟨ht, -⟩ | ⟨r, -, rfl⟩
  · exact (blockMove_of_internal hb).sameBody hr
  · obtain ⟨offers, hm⟩ := commandMove_of_commandTurn hc
    exact hm.sameBody hr'
  · exact ⟨rfl, fun _ => rfl⟩
  · exact ⟨rfl, fun _ => rfl⟩
  · exact ⟨rfl, fun _ => rfl⟩
  · exact absurd ht hrst
  · exact ⟨rfl, fun _ => rfl⟩

/-- Settles O43: a frame, a byte and a byte string all arrive by `arriveAll`. -/
theorem frameArrives : Obligations.FrameArrives := by
  intro s
  refine ⟨fun q l body c h => ?_, fun b h => ?_, fun b n hc h => ?_, fun bs h => ?_, fun _ => rfl⟩
  · have hroom : withinCap s.cfg.rxqCap (s.rxq.length + (wireBytes q l body c).length) := by
      have hlen : (wireBytes q l body c).length = 6 + body.length := by simp [wireBytes]; omega
      rwa [hlen, ← Nat.add_assoc]
    rw [exec, execFrameV2Header, arriveAll_of_room hroom]
    simp [wireBytes, headerBytes, startByte, tokenByte, highByte, lowByte]
  · rw [takeTurn, arriveAll_of_room h]
  · rw [takeTurn, arriveAll_singleton_of_full b hc h]
  · rw [takeTurn, wireTurn_eq, arriveAll_of_room h]

/-- Settles O48: the reset state's own fields. -/
theorem resetValues : Obligations.ResetValues :=
  ⟨rfl, rfl, rfl, rfl, rfl, rfl, rfl⟩

end Sys2Proof.Machine
end

section
/-! The payload of a `SEND` (R52, R82) and the ports of R41 against the block's transitions and the command port. -/

namespace Sys2Proof.Machine

/-! ### The payload of a `SEND` (R52, R81, R82) -/

/-- In `IDLE` a `SEND` is accepted or refused at once (R72, R82). -/
theorem exec_send_of_idle {s : State} (a b : Half) (p : List Byte) (hp : s.phase = .idle) :
    exec (.send a b p) s = .next (acceptSend a b p s) :=
  whenIdle_idle _ _ hp

/-- The free values that stand for the bytes not brought (log 12). -/
def State.missingBytes (s : State) (p : List Byte) (n : Nat) : List Byte :=
  (List.range (n - p.length)).map (Config.freePayload s.payFresh)

/-- With bytes missing, all that is brought is presented, and a free value for each missing byte (log 12). -/
theorem presented_of_short {s : State} {p : List Byte} {n : Nat} (h : p.length ≤ n) :
    s.presented p n = p ++ s.missingBytes p n := by
  rw [State.presented, List.take_of_length_le h, State.missingBytes]

/-- Bytes beyond the announced ones are not presented. -/
theorem presented_append_self (s : State) (p extra : List Byte) : s.presented (p ++ extra) p.length = p := by
  rw [presented_of_le (by simp), List.take_left]

/-- Settles O10: of too few bytes everything is presented with free values behind it, of too many only those announced. -/
theorem sendPayloadMismatch : Obligations.SendPayloadMismatch := by
  intro s a b p extra hp hn
  have hacc (q : List Byte) := (acceptSend_cases a b q s).resolve_left fun h => by omega
  refine ⟨fun hshort => ⟨s.missingBytes p (a.toNat + b.toNat), ?_, ?_⟩, fun hfull => ?_⟩
  · rw [State.missingBytes, List.length_map, List.length_range]
    omega
  · have hlen : BitVec.ofNat 16 (a.toNat + b.toNat) = a + b := by simp [BitVec.ofNat_add]
    rw [exec_send_of_idle a b p hp, (hacc p).2, presented_of_short hshort.le, if_pos hshort, hlen]
  · rw [exec_send_of_idle a b _ hp, exec_send_of_idle a b _ hp, (hacc _).2, (hacc p).2, ← hfull,
      presented_append_self, presented_self, if_neg (by simp), if_neg (by simp)]

/-! ### The ports of the block (R27, R41) -/

theorem State.cmdReady_iff (s : State) : s.cmdReady = true ↔ s.phase = .idle := by
  simp [State.cmdReady, State.busy]

theorem State.plReady_iff (s : State) : s.plReady = true ↔ s.phase = .txBody ∧ s.txReady = true := by
  simp [State.plReady]

/-- The byte the Transport takes in this step, if any: `tx_data`, where `tx_valid` and `tx_ready` agree (R41). -/
def State.taken (s : State) : List Byte :=
  if s.txValid && s.txReady then s.txData.toList else []

theorem State.taken_of_isTx {s : State} {b : Byte} (ht : s.phase.isTx = true) (hr : s.txReady = true)
    (hd : s.txData = some b) : s.taken = [b] := by
  simp [State.taken, State.txValid, ht, hr, hd]

theorem State.taken_of_not_tx {s : State} (ht : s.phase.isTx = false) : s.taken = [] := by
  simp [State.taken, State.txValid, ht]

section
variable {s t : State}

/-- A `SEND` with no transition enabled waits for the Transport (R88). -/
theorem State.Stalled.txReady_eq (h : s.Stalled) (ht : s.phase.isTx = true) : s.txReady = false := by
  unfold State.Stalled at h
  split at h <;> simp_all [Phase.isTx]

/-- Where nothing is enabled the Transport takes nothing. -/
theorem State.Stalled.taken_eq (h : s.Stalled) : s.taken = [] := by
  cases ht : s.phase.isTx with
  | false => exact State.taken_of_not_tx ht
  | true => simp [State.taken, h.txReady_eq ht]

/-- `TXLOG` grows by the byte the Transport takes (R41). -/
theorem BlockMove.txlog_eq (hm : BlockMove s t) : t.txlog = s.txlog ++ s.taken := by
  have emits {b : Byte} {p : Phase} (hp : s.phase = p) (ht : p.isTx = true) (hr : s.txReady = true)
      (hd : s.txData = some b) (hl : t.txlog = s.txlog ++ [b]) : t.txlog = s.txlog ++ s.taken := by
    rw [hl, State.taken_of_isTx (hp ▸ ht) hr hd]
  have silent (ht : s.phase.isTx = false) (hl : t.txlog = s.txlog) : t.txlog = s.txlog ++ s.taken := by
    rw [hl, State.taken_of_not_tx ht, List.append_nil]
  cases hm with
  | stalled h => rw [h.taken_eq, List.append_nil]
  | txHeader hp hr hb _ | txHeaderLast hp hr hb _ | txBody hp hr hb _ | txBodyLast hp hr hb _ =>
    exact emits hp rfl hr (by simpa only [State.txData, hp] using hb) rfl
  | txChecksum hp hr => exact emits hp rfl hr (by simp only [State.txData, hp]) rfl
  | timeout hd _ => exact silent (isTx_of_isRx hd.isRx) rfl
  | rxStart hp _ | rxHeader hp _ _ | rxMalformed hp _ | rxWrongSequence hp _ _ | rxTooLarge hp _ _ _
  | rxHeaderPassed hp _ _ _ | rxBody hp _ _ | rxAccepted hp _ | rxMismatch hp _ _ | flDiscard hp _ _
  | flLast hp _ _ => exact silent (by rw [hp]; rfl) rfl

/-- Where nothing is enabled nothing is popped. -/
theorem State.Stalled.rxPop_eq (h : s.Stalled) : s.rxPop = false := by
  unfold State.Stalled at h
  unfold State.rxPop
  split at h <;> simp_all [State.DataMissing]

theorem State.DataMissing.rxPop_eq (h : s.DataMissing) : s.rxPop = false := by
  unfold State.DataMissing at h
  unfold State.rxPop
  split at h <;> simp_all

/-- `RXQ` loses its head exactly when `rx_pop` (R41). -/
theorem BlockMove.rxq_eq (hm : BlockMove s t) : t.rxq = if s.rxPop then s.rxq.tail else s.rxq := by
  cases hm with
  | stalled h => simp [h.rxPop_eq]
  | timeout h _ => simp [h.rxPop_eq]
  | txHeader hp _ _ _ | txHeaderLast hp _ _ _ | txBody hp _ _ _ | txBodyLast hp _ _ _ | txChecksum hp _
  | rxStart hp _ | rxMalformed hp _ | rxWrongSequence hp _ _ | rxTooLarge hp _ _ _ | rxHeaderPassed hp _ _ _ =>
    simp [State.rxPop, hp, State.passHeader]
  | rxHeader hp hq _ | rxBody hp hq _ | rxAccepted hp hq | rxMismatch hp hq _ | flDiscard hp hq _ | flLast hp hq _ =>
    simp [State.rxPop, hp, hq, State.latchByte, State.storeByte]

/-- A `TX_BODY` step emits the body byte at `IDX` and counts up, or waits for the Transport (R84). -/
theorem BlockMove.txBody_cases (hm : BlockMove s t) (hp : s.phase = .txBody) :
    (s.txReady = false ∧ t = s) ∨
      (s.txReady = true ∧ ∃ b, s.payByte = some b ∧ t.txlog = s.txlog ++ [b] ∧ t.idx = s.idx + 1) := by
  have h : stepTxBody s = .next t := by simpa only [internal, hp] using internal_of_blockMove hm
  rcases stepTxBody_cases h with hw | ⟨hr, b, hb, ⟨-, rfl⟩ | ⟨-, rfl⟩⟩
  · exact .inl hw
  · exact .inr ⟨hr, b, hb, rfl, rfl⟩
  · exact .inr ⟨hr, b, hb, rfl, rfl⟩

end

/-! ### The command port (R41, R72) -/

/-- Every command of one word is an opcode with a word of its own (R71, R73). -/
theorem encode_decodeCommand (w : CmdWord) : ∃ v, encode (decodeCommand w) = .command [v] := by
  unfold decodeCommand
  split <;> exact ⟨_, rfl⟩

/-- A command issued as one word acts in `IDLE` without touching the offers behind it, and else is held as that word,
which decodes to the same command (R72). -/
theorem exec_of_encode_word {i : Instr} {v : CmdWord} (h : encode i = .command [v]) :
    decodeCommand v = i ∧
      ∃ accept : State → State, (∀ s, (accept s).cmdPort = s.cmdPort) ∧ ∀ s, exec i s = whenIdle [v] s accept := by
  cases i <;> cases h
  case nop => exact ⟨rfl, id, fun _ => rfl, fun _ => rfl⟩
  case send a b p => exact ⟨rfl, acceptSend a b p, acceptSend_cmdPort a b p, fun _ => rfl⟩
  case await m n => exact ⟨rfl, acceptAwait m n, acceptAwait_cmdPort m n, fun _ => rfl⟩
  case flush => exact ⟨rfl, acceptFlush, acceptFlush_cmdPort, fun _ => rfl⟩
  all_goals exact ⟨rfl, refuseCommand, fun _ => rfl, fun _ => rfl⟩

/-- The turn of the command port with one word offered: taken in `IDLE`, and else put back (R72). -/
theorem commandTurn_word_cases {s t : State} {w : CmdWord} {later : List (List CmdWord)} (hc : s.cmdPort = [w] :: later)
    (h : commandTurn s = .next t) :
    (s.phase = .idle ∧ t.cmdPort = later) ∨
      (s.phase ≠ .idle ∧ ∃ v, decodeCommand v = decodeCommand w ∧ t = { s with cmdPort := [v] :: later }) := by
  obtain ⟨v, hv⟩ := encode_decodeCommand w
  obtain ⟨hd, accept, hport, hexec⟩ := exec_of_encode_word hv
  rw [commandTurn_of_decode hc rfl, hexec] at h
  rcases whenIdle_cases h with ⟨hp, rfl⟩ | ⟨hp, rfl⟩
  · exact .inl ⟨hp, hport _⟩
  · exact .inr ⟨hp, v, hd, rfl⟩

/-- Settles O59: the block's ports by its transitions, the command port by `commandTurn_word_cases`. -/
theorem portsMatchTransitions : Obligations.PortsMatchTransitions := by
  refine ⟨fun s t h => ?_, fun s t w later hc h => ?_⟩
  · have hm := blockMove_of_internal h
    refine ⟨s.cmdReady_iff, by simp [State.cmdReady], hm.txlog_eq, hm.rxq_eq, fun hr => ?_, fun hp hr => ?_⟩
    · obtain ⟨hp, htx⟩ := s.plReady_iff.mp hr
      rcases hm.txBody_cases hp with ⟨hw, -⟩ | ⟨-, b, hb, hlog, hidx⟩
      · simp [htx] at hw
      · have hpl : s.plData = some b := by rw [State.plData, if_pos hp, hb]
        exact ⟨b, by rw [State.plValid, hpl]; rfl, hpl, by simp only [State.txData, hp, hb], hlog, hidx⟩
    · rcases hm.txBody_cases hp with ⟨-, rfl⟩ | ⟨htx, -⟩
      · rfl
      · simp [s.plReady_iff.mpr ⟨hp, htx⟩] at hr
  · have hvalid : s.cmdValid = true := by simp [State.cmdValid, hc]
    rcases commandTurn_word_cases hc h with ⟨hp, hport⟩ | ⟨hp, hheld⟩
    · exact ⟨hvalid, fun _ => hport, fun hr => by simp [s.cmdReady_iff.mpr hp] at hr⟩
    · exact ⟨hvalid, fun hr => absurd (s.cmdReady_iff.mp hr) hp, fun _ => hheld⟩

end Sys2Proof.Machine
end

section
/-! The wire frame (R60 to R70): the byte strings with a frame's shape are those that `wireBytes` builds, and decoding,
checking and parsing are computed once on such a string. -/

namespace Sys2Proof

/-! ### The shape of a frame (R60, R63, R67) -/

/-- The two constants and the length field of a frame fit the byte string; the checksum byte may be any (log 14). -/
def HasFrameShape (f : List Byte) : Prop :=
  6 ≤ f.length ∧ f.getD 0 0 = startByte ∧ f.getD 4 0 = tokenByte ∧
    f.length = 6 + ((f.getD 2 0).toNat * 256 + (f.getD 3 0).toNat)

theorem wireBytes_eq_cons (q : Byte) (len : Half) (body : List Byte) (c : Byte) :
    wireBytes q len body c = startByte :: q :: highByte len :: lowByte len :: tokenByte :: (body ++ [c]) := by
  simp [wireBytes, headerBytes]

/-- A byte string of at least six bytes with the two constants is put together from its parts (R60). -/
theorem exists_wireBytes {f : List Byte} (h6 : 6 ≤ f.length) (h0 : f.getD 0 0 = startByte)
    (h4 : f.getD 4 0 = tokenByte) :
    ∃ q body c, f = wireBytes q (joinBytes (f.getD 2 0) (f.getD 3 0)) body c := by
  match f with
  | start :: q :: hi :: lo :: token :: b :: rest =>
    obtain rfl : start = startByte := h0
    obtain rfl : token = tokenByte := h4
    refine ⟨q, (b :: rest).dropLast, (b :: rest).getLast nofun, ?_⟩
    rw [wireBytes_eq_cons, List.dropLast_append_getLast]
    simp

theorem hasFrameShape_iff {f : List Byte} :
    HasFrameShape f ↔ ∃ q len body c, body.length = len.toNat ∧ f = wireBytes q len body c := by
  constructor
  · rintro ⟨h6, h0, h4, hlen⟩
    obtain ⟨q, body, c, hf⟩ := exists_wireBytes h6 h0 h4
    refine ⟨q, _, body, c, ?_, hf⟩
    have : f.length = 6 + body.length := by rw [hf]; simp [wireBytes]; omega
    rw [joinBytes_toNat]
    omega
  · rintro ⟨q, len, body, c, hlen, rfl⟩
    have hjoin := joinBytes_toNat (highByte len) (lowByte len)
    rw [joinBytes_split] at hjoin
    simp only [HasFrameShape, wireBytes_eq_cons, List.getD_cons_zero, List.getD_cons_succ, List.length_cons,
      List.length_append, List.length_nil]
    exact ⟨by omega, trivial, trivial, by omega⟩

/-! ### Decoding (R60, R67, R70) -/

/-- Of a string built like a frame the decoder checks only the length field. -/
theorem decodeWire_wireBytes (q : Byte) (len : Half) (body : List Byte) (c : Byte) :
    decodeWire (wireBytes q len body c) =
      if body.length = len.toNat then .ok (.frameV2Header q len body c) else .error .badLength := by
  rw [wireBytes_eq_cons]
  by_cases h : body.length = len.toNat <;> simp [decodeWire, h]

/-- What is read from the line is a frame whose length field is true, from its own bytes. -/
theorem decodeWire_eq_ok_iff {f : List Byte} {i : Instr} :
    decodeWire f = .ok i ↔
      ∃ q len body c, body.length = len.toNat ∧ f = wireBytes q len body c ∧ i = .frameV2Header q len body c := by
  constructor
  · intro h
    obtain ⟨-, q, len, body, c, rfl, rfl⟩ := Machine.encode_of_decodeWire h
    rw [decodeWire_wireBytes] at h
    split at h
    · next hlen => exact ⟨q, len, body, c, hlen, rfl, rfl⟩
    · cases h
  · rintro ⟨q, len, body, c, hlen, rfl, rfl⟩
    rw [decodeWire_wireBytes, if_pos hlen]

theorem exists_decodeWire_eq_ok_iff {f : List Byte} : (∃ i, decodeWire f = .ok i) ↔ HasFrameShape f := by
  rw [hasFrameShape_iff]
  constructor
  · rintro ⟨i, h⟩
    obtain ⟨q, len, body, c, hlen, hf, -⟩ := decodeWire_eq_ok_iff.mp h
    exact ⟨q, len, body, c, hlen, hf⟩
  · rintro ⟨q, len, body, c, hlen, hf⟩
    exact ⟨_, decodeWire_eq_ok_iff.mpr ⟨q, len, body, c, hlen, hf, rfl⟩⟩

/-! ### The checksum (R66) -/

/-- A last byte that is the exclusive-or of the bytes before it brings the whole to 0x00, and no other does. -/
theorem xorAll_append_singleton_eq_zero_iff (bs : List Byte) (c : Byte) :
    xorAll (bs ++ [c]) = 0x00 ↔ c = xorAll bs := by
  have hc : xorAll [c] = c := BitVec.xor_zero
  rw [xorAll_append, hc, BitVec.ofNat_eq_ofNat, BitVec.xor_eq_zero_iff, eq_comm]

theorem xorAll_encodeV2 (q : Byte) (cp data : List Byte) : xorAll (encodeV2 q cp data) = 0x00 := by
  rw [encodeV2_eq]
  exact (xorAll_append_singleton_eq_zero_iff _ _).mpr rfl

/-- The frame with an empty body (R66). -/
theorem encodeV2_nil_nil (q : Byte) : encodeV2 q [] [] = [0x1B, q, 0x00, 0x00, 0x0E, q ^^^ 0x15] := by
  have hx : xorAll [0x1B, q, 0x00, 0x00, 0x0E] = q ^^^ 0x15 := by
    calc 0x1B ^^^ (q ^^^ (0x00 ^^^ (0x00 ^^^ (0x0E ^^^ 0x00)))) = 0x1B ^^^ (q ^^^ 0x0E) := rfl
      _ = q ^^^ (0x1B ^^^ 0x0E) := by rw [← BitVec.xor_assoc, BitVec.xor_comm 0x1B, BitVec.xor_assoc]
  rw [← hx]
  rfl

/-- Settles O7: all bytes but the last are what `encodeV2` takes the exclusive-or of. -/
theorem checksumBalances : Obligations.ChecksumBalances := by
  intro q cp data _
  refine ⟨xorAll_encodeV2 q cp data, ?_, encodeV2_nil_nil q⟩
  rw [encodeV2_eq, List.getLast?_concat, List.dropLast_concat]

/-- Settles O8: `encodeV2` takes its two parts only together. -/
theorem splitNotRecorded : Obligations.SplitNotRecorded := by
  intro q cp data cp' data' _ h
  rw [encodeV2_eq, encodeV2_eq, h]

/-! ### Encoding and parsing (R68, R69) -/

/-- A frame put together from its parts is an encoded one exactly when its checksum balances (R69). -/
theorem wireBytes_eq_encodeV2 {q : Byte} {len : Half} {body : List Byte} {c : Byte} (hlen : body.length = len.toNat)
    (hx : xorAll (wireBytes q len body c) = 0x00) : wireBytes q len body c = encodeV2 q body [] := by
  have hpre : headerBytes q len ++ body = framePre q body := by
    rw [framePre, hlen, BitVec.ofNat_toNat, BitVec.setWidth_eq]
  rw [wireBytes, hpre] at hx ⊢
  rw [encodeV2_eq, List.append_nil, (xorAll_append_singleton_eq_zero_iff _ _).mp hx]

theorem parseFrame_wireBytes (q : Byte) (len : Half) (body : List Byte) (c : Byte) :
    parseFrame (wireBytes q len body c) = (q, body) := by
  simp [parseFrame, wireBytes_eq_cons]

theorem parseFrame_encodeV2 (q : Byte) (cp data : List Byte) :
    parseFrame (encodeV2 q cp data) = (q, cp ++ data) := by
  rw [encodeV2_eq]
  exact parseFrame_wireBytes q _ (cp ++ data) _

theorem frameWellFormed_iff {f : List Byte} :
    frameWellFormed f = true ↔ HasFrameShape f ∧ xorAll f = 0x00 := by
  simp only [frameWellFormed, HasFrameShape, joinBytes_toNat, Bool.and_eq_true, decide_eq_true_eq, beq_iff_eq,
    and_assoc]

/-- Settles O6: (a) and (b) are computed on the encoded frame; for (c) a well-formed byte string is put together from
its parts, and its checksum byte is the one `encodeV2` writes. -/
theorem encodeParseInverse : Obligations.EncodeParseInverse := by
  refine ⟨fun q cp data h => ⟨frameWellFormed_encodeV2 q cp data h, parseFrame_encodeV2 q cp data⟩, fun f hf => ?_⟩
  obtain ⟨hshape, hx⟩ := frameWellFormed_iff.mp hf
  obtain ⟨q, len, body, c, hlen, rfl⟩ := hasFrameShape_iff.mp hshape
  rw [parseFrame_wireBytes]
  have hle : body.length ≤ 65535 := by have := len.isLt; omega
  exact ⟨hle, wireBytes_eq_encodeV2 hlen hx⟩

/-- Settles O4: decoding succeeds on the strings with a frame's shape, and reads a frame from its own bytes. -/
theorem wireFramesDecode : Obligations.WireFramesDecode := fun _ =>
  ⟨exists_decodeWire_eq_ok_iff, fun _ h => (Machine.encode_of_decodeWire h).1⟩

end Sys2Proof
end

section
/-! The words on the command port and the read port (R71, R73, R74, R76) and what the decoder reads from them. -/

namespace Sys2Proof

/-- The twelve reserved operations (R73). -/
def reservedInstrs : List Instr :=
  [.reserved4, .reserved5, .reserved6, .reserved7, .reserved8, .reserved9,
    .reservedA, .reservedB, .reservedC, .reservedD, .reservedE, .reservedF]

/-- The reserved opcodes, one operation each (R73). -/
theorem decodeCommand_plainWord_reserved :
    ∀ op : BitVec 4, 0b0100 ≤ op →
      decodeCommand (plainWord op) ∈ reservedInstrs ∧
        encode (decodeCommand (plainWord op)) = .command [plainWord op] := by
  decide

/-- A reserved opcode uses no operand input (R71, V8). -/
theorem decodeCommand_eq_plainWord {w : CmdWord} (h : 0b0100 ≤ w.op) :
    decodeCommand w = decodeCommand (plainWord w.op) := by
  have h4 : 4 ≤ w.op.toNat := h
  simp only [decodeCommand, plainWord]
  split
  -- the rows of `SEND` and `AWAIT`, the only ones with operands
  case h_2 | h_3 => omega
  all_goals rfl

/-- Settles O1, by the operation: a frame by `decodeWire_wireBytes`; the words of every other operation are matched
against the tables they were written from. -/
theorem decodeOfEncode : Obligations.DecodeOfEncode := by
  intro c i hwf
  cases i
  case frameV2Header q len body k =>
    have hlen : body.length = len.toNat := of_decide_eq_true hwf
    rw [encode, decode, decodeWire_wireBytes, if_pos hlen]
  all_goals rfl

/-- Settles O2: each legal opcode is a row of the decoder's table; a reserved one is decoded as its plain word is. -/
theorem commandWordsDecode : Obligations.CommandWordsDecode := by
  rintro ⟨op, a, b, t, payload⟩
  refine ⟨?_, ?_, ?_, ?_, fun h => ?_⟩
  · rintro rfl; rfl
  · rintro rfl; rfl
  · rintro rfl; rfl
  · rintro rfl; rfl
  · obtain ⟨hmem, henc⟩ := decodeCommand_plainWord_reserved op h
    exact ⟨_, hmem, congrArg Except.ok (decodeCommand_eq_plainWord h), henc⟩

/-- Settles O3: each read select is a row of the decoder's table. -/
theorem readWordsDecode : Obligations.ReadWordsDecode := fun _ =>
  ⟨rfl, rfl, rfl, rfl⟩

/-- Settles O5, by decoding the five words. -/
theorem sampleWordsDecode : Obligations.SampleWordsDecode :=
  ⟨rfl, rfl, rfl, rfl, rfl⟩

end Sys2Proof
end

section
/-! Commands at acceptance: held while busy (R72), the reserved opcodes refused (R73), and the pseudo-operations as the
acceptance of their first operation (R76). -/

namespace Sys2Proof.Machine

/-- Settles O42: of the two things a command can do only one is open while the block is busy. -/
theorem commandHeldWhileBusy : Obligations.CommandHeldWhileBusy := by
  intro s i ws hbusy hi
  obtain ⟨t, ht⟩ := exec_total i s
  rcases exec_command_cases hi ht with ⟨-, rfl⟩ | ⟨hidle, -⟩
  · exact ht
  · exact absurd hidle hbusy

/-- A reserved operation is one command word that `IDLE` refuses (R73). -/
theorem exec_reserved {i : Instr} (hi : i ∈ reservedInstrs) :
    ∃ op, ∀ s, exec i s = whenIdle [plainWord op] s refuseCommand := by
  fin_cases hi <;> exact ⟨_, fun _ => rfl⟩

/-- Settles O37: the refusal is all that a reserved operation does in `IDLE`. -/
theorem reservedOpcodesRefused : Obligations.ReservedOpcodesRefused := by
  intro i hi s hp
  obtain ⟨op, hexec⟩ := exec_reserved hi
  rw [hexec, whenIdle_idle _ _ hp]
  rfl

/-- The acceptance of a `SEND` for which exactly the announced bytes are there (R82). -/
theorem acceptSend_of_exact {a b : Half} {p : List Byte} (s : State) (hn : a.toNat + b.toNat ≤ 65535)
    (hp : p.length = a.toNat + b.toNat) :
    acceptSend a b p s =
      { s with
        txlen := BitVec.ofNat 16 p.length, pay := p, tseq := s.seq, seq := s.seq + 1,
        cks := 0x00, idx := 0, status := .busy, phase := .txHdr } := by
  rcases acceptSend_cases a b p s with ⟨hover, -⟩ | ⟨-, h⟩
  · omega
  · rw [h, ← hp, presented_self, if_neg (Nat.lt_irrefl _)]

/-- Settles O44: in `IDLE` both are the acceptance of the `SEND` with the `AWAIT` at the command port. -/
theorem xactIsSendThenAwait : Obligations.XactIsSendThenAwait := by
  intro s a b m p n hp
  have hx : exec (.xact a b p m n) s = .next (acceptSend a b p (s.hold [awaitWord m n])) := whenIdle_idle _ _ hp
  rw [hx]
  refine ⟨(exec_send_of_idle (s := s.hold [awaitWord m n]) a b p hp).symm, fun hn hlen => ?_⟩
  rw [acceptSend_of_exact _ hn hlen]
  rfl

/-- Settles O45: in `IDLE` both are the acceptance of the `FLUSH` with the `SEND` and the `AWAIT` at the command port. -/
theorem synctryIsFlushSendAwait : Obligations.SynctryIsFlushSendAwait := by
  intro s a m p n hp offers
  have hflush : exec .flush { s with cmdPort := offers } = .next (acceptFlush { s with cmdPort := offers }) :=
    whenIdle_idle _ _ hp
  have hx : exec (.synctry a p m n) s = .next (acceptFlush { s with cmdPort := offers }) := whenIdle_idle _ _ hp
  refine ⟨hx.trans hflush.symm, hx.trans ?_⟩
  rcases acceptFlush_cases { s with cmdPort := offers } with ⟨hq, h⟩ | ⟨hq, h⟩
  · rw [h, if_pos hq]
  · rw [h, if_neg hq]

end Sys2Proof.Machine
end

section
/-! The steps of a `SEND`, one by one (R82 to R85, R89): each is a transition of `BlockMove` or the acceptance that the
laws already describe. -/

namespace Sys2Proof.Machine

/-- Settles O9: the two things the acceptance of `SEND` can do, each under its bound. -/
theorem sendAccepted : Obligations.SendAccepted := by
  intro s a b p hp
  rw [exec_send_of_idle a b p hp]
  refine ⟨fun hover => ?_, fun hn hlen => ?_⟩
  · obtain ⟨-, h⟩ := (acceptSend_cases a b p s).resolve_right fun h => by omega
    rw [h, State.refuse]
  · rw [acceptSend_of_exact s hn hlen]

/-- A `SEND` whose Transport is not ready waits (R88). -/
theorem internal_of_tx_not_ready {s : State} (ht : s.phase.isTx = true) (hr : s.txReady = false) :
    internal s = .next s := by
  refine internal_of_stalled ?_
  unfold State.Stalled
  split <;> simp_all [Phase.isTx]

/-- Settles O11: the offered byte is the header byte at `IDX`, and at `IDX` 4 it is the last one. -/
theorem headerStepEmits : Obligations.HeaderStepEmits := by
  intro s hp
  refine ⟨internal_of_tx_not_ready (by rw [hp]; rfl), fun hr b (hb : s.txHeaderByte = some b) => ?_⟩
  by_cases h4 : s.idx = 4
  · rw [if_pos h4]
    exact internal_of_blockMove (.txHeaderLast hp hr hb (by rw [h4]; rfl))
  · rw [if_neg h4]
    exact internal_of_blockMove (.txHeader hp hr hb (by bv_omega))

/-- Settles O12: the offered byte is the body byte at `IDX`, and it is the last one where `IDX + 1 = TXLEN`. -/
theorem bodyStepEmits : Obligations.BodyStepEmits := by
  intro s hp
  refine ⟨internal_of_tx_not_ready (by rw [hp]; rfl), fun hr b (hb : s.payByte = some b) => ?_⟩
  by_cases hl : s.idx + 1 = s.txlen
  · rw [if_pos hl]
    exact internal_of_blockMove (.txBodyLast hp hr hb hl)
  · rw [if_neg hl, ← hp]
    exact internal_of_blockMove (.txBody hp hr hb hl)

/-- Settles O13: the step is the transition that ends a `SEND`; what the invariants say of the emitted part in `TX_CKS`
makes `CKS` the one byte the frame still lacks. -/
theorem checksumStepEmits : Obligations.ChecksumStepEmits := by
  intro s hp
  have htx : s.phase.isTx = true := by rw [hp]; rfl
  refine ⟨internal_of_tx_not_ready htx, fun hr => internal_of_blockMove (.txChecksum hp hr), fun base hi h => ?_⟩
  have hl : s.pay.length = s.txlen.toNat := hi.payLength htx
  have hc : s.cks = xorAll s.emitted := h.checksum htx
  refine ⟨?_, hc, ?_⟩
  · rw [emitted_txCks hp, List.length_take, State.txFrame, encodeV2_length, hl]
    simp
  · rw [hc, emitted_txCks hp, ← txFrame_eq_take_append hl, State.txFrame]

/-- No command emits (R89). -/
theorem CommandMove.txlog_eq {s t : State} (hm : CommandMove s t) : t.txlog = s.txlog := by
  cases hm <;> rfl

/-- What the Transport takes is nothing or, in a `TX_*` phase, the byte offered (R41). -/
theorem State.taken_cases (s : State) :
    s.taken = [] ∨ (s.phase.isTx = true ∧ ∃ b, s.txData = some b ∧ s.taken = [b]) := by
  by_cases h : s.txValid = true ∧ s.txReady = true
  · obtain ⟨htx, hr⟩ := h
    cases hd : s.txData with
    | none => exact .inl (by simp [State.taken, hd])
    | some b => exact .inr ⟨htx, b, rfl, State.taken_of_isTx htx hr hd⟩
  · exact .inl (by simp [State.taken, h])

/-- Settles O15, by whose turn it is: only the block's transitions emit, and they emit what the Transport takes. -/
theorem transmitOnlyWhileSending : Obligations.TransmitOnlyWhileSending := by
  intro s t hst
  rcases step_cases hst with
    ⟨hb, hi⟩ | ⟨-, hc⟩ | ⟨w, d, -, rfl⟩ | ⟨bs, -, rfl⟩ | ⟨-, rfl⟩ | ⟨-, rfl⟩ | ⟨r, -, rfl⟩
  · have hlog : t.txlog = s.txlog ++ s.taken := (blockMove_of_internal hi).txlog_eq
    rcases s.taken_cases with h | ⟨htx, b, hd, h⟩
    · exact .inl (by rw [hlog, h, List.append_nil])
    · exact .inr ⟨htx, hb, b, hd, by rw [hlog, h]⟩
  · obtain ⟨offers, hm⟩ := commandMove_of_commandTurn hc
    exact .inl hm.txlog_eq
  all_goals exact .inl rfl

end Sys2Proof.Machine
end

section
/-! Runs of calm turns (R9, R24): what the turns that are not the block's do outside an `AWAIT`, and the induction over a
run, once for every operation. -/

namespace Sys2Proof

theorem arrivals_cons (e : Turn) (evs : List Turn) : arrivals (e :: evs) = arrivals [e] ++ arrivals evs := by
  cases e <;> simp [arrivals]

end Sys2Proof

namespace Sys2Proof.Machine

/-- Of what arrives, some joins the queue at its tail, in order, and all of it where the queue is unbounded (R24). -/
theorem arriveAll_rxq_sublist (s : State) (bs : List Byte) :
    ∃ more, (s.arriveAll bs).rxq = s.rxq ++ more ∧ more.Sublist bs ∧ (s.cfg.rxqCap = none → more = bs) := by
  rw [State.arriveAll_rxq]
  generalize s.rxq = q
  generalize s.cfg.rxqCap = cap
  induction bs generalizing q with
  | nil => exact ⟨[], by simp⟩
  | cons b bs ih =>
    obtain ⟨more, hq, hsub, hall⟩ := ih (arriveIn cap q b)
    have hone : arriveIn cap q b = q ++ [b] ∨ (arriveIn cap q b = q ∧ cap ≠ none) := by
      unfold arriveIn
      split
      · exact .inl rfl
      · split
        · exact .inl rfl
        · exact .inr ⟨rfl, nofun⟩
    rw [List.foldl_cons, hq]
    rcases hone with h | ⟨h, hcap⟩
    · exact ⟨b :: more, by rw [h, List.append_assoc, List.singleton_append], hsub.cons_cons b, fun hc => by rw [hall hc]⟩
    · exact ⟨more, by rw [h], hsub.cons b, fun hc => absurd hc hcap⟩

/-- Outside an `AWAIT` a calm turn that is not the block's brings what arrives and perhaps an answer of the read port. -/
theorem takeTurn_calm {e : Turn} {s : State} (hc : e.calm = true) (hb : e ≠ .block) (hr : s.phase.isRx = false) :
    ∃ d, takeTurn e s = .next ((s.arriveAll (arrivals [e])).answer d) := by
  cases e with
  | block => exact absurd rfl hb
  | tick => exact ⟨s.rdOut, by simp [takeTurn, tickEvent, hr, arrivals, State.arriveAll, State.answer]⟩
  | arrive b => exact ⟨s.rdOut, rfl⟩
  | wire bs => exact ⟨s.rdOut, by rw [takeTurn, wireTurn_eq, arrivals, arrivals, List.append_nil]; rfl⟩
  | read w =>
    obtain ⟨d, h⟩ := readTurn_total w s
    exact ⟨d, h⟩
  | command | rst | txReady r => cases hc

/-- The transitions of the block leave the agenda alone. -/
theorem BlockMove.agenda_eq {s t : State} (hm : BlockMove s t) : t.agenda = s.agenda := by
  cases hm <;> rfl

/-- The induction over a run: what every turn of the agenda keeps holds when the agenda is used up. -/
theorem steps_agenda {P : State → Prop}
    (hturn : ∀ s e later, s.agenda = e :: later → P s → ∃ t, step s = .next t ∧ t.agenda = later ∧ P t)
    {s : State} (h : P s) : ∃ t, steps s.agenda.length s = .next t ∧ t.agenda = [] ∧ P t := by
  induction ha : s.agenda generalizing s with
  | nil => exact ⟨s, rfl, ha, h⟩
  | cons e later ih =>
    obtain ⟨u, hu, hua, hP⟩ := hturn s e later ha h
    obtain ⟨t, ht, hta, hPt⟩ := ih hP hua
    exact ⟨t, by rw [List.length_cons, steps_succ _ hu, ht], hta, hPt⟩

end Sys2Proof.Machine
end

section
/-! An accepted `SEND` as a whole (R86). What the block has yet to hand to the Transport is a function of its registers,
`State.unsent`; every transition of the `SEND` moves its first byte to `TXLOG`, so `TXLOG` followed by it is the same
string all along. -/

namespace Sys2Proof

/-- Bytes to come and behind them the checksum byte, when `c` is the exclusive-or of the bytes before (R66). -/
def closedBy (c : Byte) (bs : List Byte) : List Byte := bs ++ [c ^^^ xorAll bs]

theorem closedBy_nil (c : Byte) : closedBy c [] = [c] := by simp [closedBy]

/-- Emitting a byte and folding it into the checksum leaves the rest of the frame to come. -/
theorem closedBy_cons (c b : Byte) (bs : List Byte) : closedBy c (b :: bs) = b :: closedBy (c ^^^ b) bs := by
  simp [closedBy, BitVec.xor_assoc]

/-- From the start the bytes to come are the whole frame (R65, R68). -/
theorem closedBy_framePre (q : Byte) (cp data : List Byte) :
    closedBy 0x00 (framePre q (cp ++ data)) = encodeV2 q cp data := by
  simp [encodeV2_eq, closedBy]

theorem drop_of_getElem? {f : List Byte} {n : Nat} {b : Byte} (h : f[n]? = some b) : f.drop n = b :: f.drop (n + 1) := by
  rw [List.drop_eq_getElem?_toList_append, h, Option.toList_some, List.singleton_append]

end Sys2Proof

namespace Sys2Proof.Machine

/-- What a `SEND` in progress has yet to emit (R83 to R85). -/
def State.unsent (s : State) : List Byte :=
  match s.phase with
  | .txHdr => closedBy s.cks ((headerBytes s.tseq s.txlen).drop s.idx.toNat ++ s.pay)
  | .txBody => closedBy s.cks (s.pay.drop s.idx.toNat)
  | .txCks => [s.cks]
  | .idle | .rxWait | .rxHdr | .rxChk | .rxBody | .rxCks | .fl => []

theorem unsent_txHdr {s : State} (hp : s.phase = .txHdr) :
    s.unsent = closedBy s.cks ((headerBytes s.tseq s.txlen).drop s.idx.toNat ++ s.pay) := by
  simp only [State.unsent, hp]

theorem unsent_txBody {s : State} (hp : s.phase = .txBody) : s.unsent = closedBy s.cks (s.pay.drop s.idx.toNat) := by
  simp only [State.unsent, hp]

theorem unsent_txCks {s : State} (hp : s.phase = .txCks) : s.unsent = [s.cks] := by
  simp only [State.unsent, hp]

theorem unsent_of_idle {s : State} (hp : s.phase = .idle) : s.unsent = [] := by
  simp only [State.unsent, hp]

/-- A `SEND` under way with a ready Transport, or just completed: `PAY` is as long as announced and `IDX` is where it
can be (R13, R15, R85). -/
structure State.Sending (s : State) : Prop where
  ready : s.txReady = true
  payLength : s.pay.length = s.txlen.toNat
  position : (s.phase = .txHdr ∧ s.idx.toNat < 5) ∨ (s.phase = .txBody ∧ s.idx.toNat < s.txlen.toNat) ∨
    s.phase = .txCks ∨ (s.phase = .idle ∧ s.status = .ok)

/-- The state without what the turns during a `SEND` write: log, `CKS`, `IDX`, `PHASE`, `STATUS`, and from outside the
queue, the read port and the agenda (R86). -/
def State.besideSend (s : State) : State :=
  { s with txlog := [], cks := 0, idx := 0, phase := .idle, status := .ok, rxq := [], rdOut := none, agenda := [] }

section
variable {s t : State}

/-- What such a state still shows: the parameters, `SEQ`, the body of the last response, `TIMER` and the offers. -/
theorem fields_of_besideSend_eq (h : t.besideSend = s.besideSend) :
    t.cfg = s.cfg ∧ t.seq = s.seq ∧ SameBody s t ∧ t.timer = s.timer ∧ t.cmdPort = s.cmdPort :=
  ⟨(congrArg State.cfg h :), (congrArg State.seq h :),
    ⟨(congrArg State.respLen h :), fun i => (congrArg (fun u => u.bodyByte i) h :)⟩,
    (congrArg State.timer h :), (congrArg State.cmdPort h :)⟩

theorem State.Sending.not_isRx (h : s.Sending) : s.phase.isRx = false := by
  rcases h.position with ⟨hp, -⟩ | ⟨hp, -⟩ | hp | ⟨hp, -⟩ <;> rw [hp] <;> rfl

end

/-- The block's transition from `s` to `t` moves the first byte that remains of a `SEND` to `TXLOG`; the `SEND` goes on or
has completed, and nothing beside it changes (R83 to R85). -/
structure EmitsNext (s t : State) : Prop where
  move : BlockMove s t
  sending : t.Sending
  beside : t.besideSend = s.besideSend
  rxq : t.rxq = s.rxq
  emits : ∃ b, t.txlog = s.txlog ++ [b] ∧ s.unsent = b :: t.unsent

section
variable {s : State} (h : s.Sending)
include h

/-- In `TX_HDR` before the last header byte. -/
theorem emitsNext_header {b : Byte} (hp : s.phase = .txHdr) (hb : s.txHeaderByte = some b) (h5 : s.idx + 1 ≠ 5) :
    EmitsNext s (s.emitCounted b) := by
  have hi : s.idx.toNat < 5 := (List.getElem?_eq_some_iff.mp hb).1
  have hsucc : (s.idx + 1).toNat = s.idx.toNat + 1 := by bv_omega
  have hlt : (s.idx + 1).toNat < 5 := by bv_omega
  refine ⟨.txHeader hp h.ready hb h5, ⟨h.ready, h.payLength, .inl ⟨hp, hlt⟩⟩, rfl, rfl, b, rfl, ?_⟩
  rw [unsent_txHdr hp, drop_of_getElem? hb, List.cons_append, closedBy_cons, ← hsucc]
  exact congrArg _ (unsent_txHdr (s := s.emitCounted b) hp).symm

/-- With the last header byte the body is to come, or the checksum where the body is empty. -/
theorem emitsNext_headerLast {b : Byte} (hp : s.phase = .txHdr) (hb : s.txHeaderByte = some b) (h5 : s.idx + 1 = 5) :
    EmitsNext s { s.emitCounted b with idx := 0, phase := if s.txlen = 0 then .txCks else .txBody } := by
  have hi : s.idx.toNat + 1 = 5 := by bv_omega
  have hrest : s.unsent = b :: closedBy (s.cks ^^^ b) s.pay := by
    rw [unsent_txHdr hp, drop_of_getElem? hb, hi, List.cons_append, closedBy_cons]
    rfl
  have hmove := BlockMove.txHeaderLast hp h.ready hb h5
  by_cases h0 : s.txlen = 0
  · have hpay : s.pay = [] := List.eq_nil_of_length_eq_zero (by rw [h.payLength, h0]; rfl)
    refine ⟨hmove, ⟨h.ready, h.payLength, .inr (.inr (.inl (if_pos h0)))⟩, rfl, rfl, b, rfl, ?_⟩
    rw [hrest, hpay, closedBy_nil, unsent_txCks (if_pos h0)]
    rfl
  · have hlt : (0 : Half).toNat < s.txlen.toNat := by bv_omega
    refine ⟨hmove, ⟨h.ready, h.payLength, .inr (.inl ⟨if_neg h0, hlt⟩)⟩, rfl, rfl, b, rfl, ?_⟩
    rw [hrest, unsent_txBody (if_neg h0)]
    rfl

/-- In `TX_BODY` before the last body byte. -/
theorem emitsNext_body {b : Byte} (hp : s.phase = .txBody) (hb : s.payByte = some b) (hl : s.idx + 1 ≠ s.txlen) :
    EmitsNext s (s.emitCounted b) := by
  have hi : s.idx.toNat < s.txlen.toNat := h.payLength ▸ (List.getElem?_eq_some_iff.mp hb).1
  have hsucc : (s.idx + 1).toNat = s.idx.toNat + 1 := by bv_omega
  have hlt : (s.idx + 1).toNat < s.txlen.toNat := by bv_omega
  refine ⟨.txBody hp h.ready hb hl, ⟨h.ready, h.payLength, .inr (.inl ⟨hp, hlt⟩)⟩, rfl, rfl, b, rfl, ?_⟩
  rw [unsent_txBody hp, drop_of_getElem? hb, closedBy_cons, ← hsucc]
  exact congrArg _ (unsent_txBody (s := s.emitCounted b) hp).symm

/-- With the last body byte the checksum is to come. -/
theorem emitsNext_bodyLast {b : Byte} (hp : s.phase = .txBody) (hb : s.payByte = some b) (hl : s.idx + 1 = s.txlen) :
    EmitsNext s { s.emitCounted b with phase := .txCks } := by
  have hi : s.idx.toNat < s.pay.length := (List.getElem?_eq_some_iff.mp hb).1
  have hend : s.pay.length ≤ s.idx.toNat + 1 := by rw [h.payLength] at hi ⊢; bv_omega
  refine ⟨.txBodyLast hp h.ready hb hl, ⟨h.ready, h.payLength, .inr (.inr (.inl rfl))⟩, rfl, rfl, b, rfl, ?_⟩
  rw [unsent_txBody hp, drop_of_getElem? hb, List.drop_eq_nil_of_le hend, closedBy_cons, closedBy_nil]
  rfl

/-- The checksum byte completes the `SEND`. -/
theorem emitsNext_checksum (hp : s.phase = .txCks) : EmitsNext s ((s.emit s.cks).complete .ok) :=
  ⟨.txChecksum hp h.ready, ⟨h.ready, h.payLength, .inr (.inr (.inr ⟨rfl, rfl⟩))⟩, rfl, rfl, s.cks, rfl, unsent_txCks hp⟩

/-- As long as bytes remain the block's transition emits the next one (R88): there is a byte at every index a `SEND` can
be at. -/
theorem exists_emitsNext (hne : s.unsent ≠ []) : ∃ t, EmitsNext s t := by
  rcases h.position with ⟨hp, hi⟩ | ⟨hp, hi⟩ | hp | ⟨hp, -⟩
  · obtain ⟨b, hb⟩ := Option.isSome_iff_exists.mp (txHeaderByte_isSome hi)
    by_cases h5 : s.idx + 1 = 5
    · exact ⟨_, emitsNext_headerLast h hp hb h5⟩
    · exact ⟨_, emitsNext_header h hp hb h5⟩
  · have hb : s.payByte = some _ := List.getElem?_eq_getElem (h.payLength ▸ hi)
    by_cases hl : s.idx + 1 = s.txlen
    · exact ⟨_, emitsNext_bodyLast h hp hb hl⟩
    · exact ⟨_, emitsNext_body h hp hb hl⟩
  · exact ⟨_, emitsNext_checksum h hp⟩
  · exact absurd (unsent_of_idle hp) hne

/-- With no byte left the `SEND` has completed with `OK`. -/
theorem completed_of_unsent_nil (hnil : s.unsent = []) : s.phase = .idle ∧ s.status = .ok := by
  rcases h.position with ⟨hp, -⟩ | ⟨hp, -⟩ | hp | hdone
  · simp [unsent_txHdr hp, closedBy] at hnil
  · simp [unsent_txBody hp, closedBy] at hnil
  · simp [unsent_txCks hp] at hnil
  · exact hdone

end

/-! ### The run -/

/-- During the run of a `SEND` that was accepted in the state `start`: nothing beside it has changed, log and bytes to
come make the same string, there is a turn of the block for each byte to come, and the queue is longer by what arrived. -/
structure SendRun (start s : State) : Prop where
  sending : s.Sending
  beside : s.besideSend = start.besideSend
  log : s.txlog ++ s.unsent = start.txlog ++ start.unsent
  calm : ∀ e ∈ s.agenda, e.calm = true
  turns : s.agenda.count .block = s.unsent.length
  queue : ∃ past more, past ++ arrivals s.agenda = arrivals start.agenda ∧ s.rxq = start.rxq ++ more ∧
    more.Sublist past ∧ (start.cfg.rxqCap = none → more = past)

section
variable {start s : State}

/-- Right after the acceptance. -/
theorem SendRun.refl (h : s.Sending) (hc : ∀ e ∈ s.agenda, e.calm = true)
    (hn : s.agenda.count .block = s.unsent.length) : SendRun s s where
  sending := h
  beside := rfl
  log := rfl
  calm := hc
  turns := hn
  queue := ⟨[], [], rfl, by simp, .refl _, fun _ => rfl⟩

/-- The block's turn emits one of the bytes to come. -/
theorem SendRun.block {later : List Turn} (h : SendRun start s) (ha : s.agenda = .block :: later) :
    ∃ t, step s = .next t ∧ t.agenda = later ∧ SendRun start t := by
  have hturns : later.count .block + 1 = s.unsent.length := by rw [← h.turns, ha, List.count_cons_self]
  have hs : State.Sending { s with agenda := later } := ⟨h.sending.ready, h.sending.payLength, h.sending.position⟩
  obtain ⟨t, hm⟩ := exists_emitsNext hs fun (hnil : s.unsent = []) => by simp [hnil] at hturns
  obtain ⟨b, hlog, (hrest : s.unsent = b :: t.unsent)⟩ := hm.emits
  have hta : t.agenda = later := hm.move.agenda_eq
  obtain ⟨past, more, harr, hq, hsub, hall⟩ := h.queue
  refine ⟨t, (step_of_agenda_cons ha).trans (internal_of_blockMove hm.move), hta, ?_⟩
  exact {
    sending := hm.sending
    beside := hm.beside.trans h.beside
    log := by rw [hlog, ← h.log, hrest, List.append_assoc, List.singleton_append]
    calm := fun e he => h.calm e (by rw [ha]; exact List.mem_cons_of_mem _ (hta ▸ he))
    turns := by rw [hrest, List.length_cons] at hturns; rw [hta]; omega
    queue := ⟨past, more, by rw [← harr, ha, hta]; rfl, hm.rxq.trans hq, hsub, hall⟩ }

/-- Every other calm turn brings at most bytes for the queue and an answer. -/
theorem SendRun.outside {e : Turn} {later : List Turn} (h : SendRun start s) (ha : s.agenda = e :: later)
    (hb : e ≠ .block) : ∃ t, step s = .next t ∧ t.agenda = later ∧ SendRun start t := by
  have hcalm (x : Turn) (hx : x ∈ e :: later) : x.calm = true := h.calm x (ha ▸ hx)
  have hturns : later.count .block = s.unsent.length := by rw [← h.turns, ha, List.count_cons_of_ne hb]
  obtain ⟨d, ht⟩ := takeTurn_calm (s := { s with agenda := later }) (hcalm e List.mem_cons_self) hb h.sending.not_isRx
  obtain ⟨past, more, harr, hq, hsub, hall⟩ := h.queue
  obtain ⟨new, hnew, hnewSub, hnewAll⟩ := arriveAll_rxq_sublist { s with agenda := later } (arrivals [e])
  obtain ⟨hcfg, -⟩ := fields_of_besideSend_eq h.beside
  refine ⟨_, (step_of_agenda_cons ha).trans ht, rfl, ?_⟩
  exact {
    sending := ⟨h.sending.ready, h.sending.payLength, h.sending.position⟩
    beside := h.beside
    log := h.log
    calm := fun x hx => hcalm x (List.mem_cons_of_mem _ hx)
    turns := hturns
    queue := ⟨past ++ arrivals [e], more ++ new,
      by rw [← harr, ha, arrivals_cons e later, List.append_assoc]; rfl,
      by rw [← List.append_assoc, ← hq]; exact hnew,
      hsub.append hnewSub,
      fun hc => by rw [hall hc, hnewAll (hcfg ▸ hc)]⟩ }

/-- With the agenda used up the frame is out and the `SEND` has completed with `OK`. -/
theorem SendRun.finished (h : SendRun start s) (ha : s.agenda = []) :
    s.txlog = start.txlog ++ start.unsent ∧ s.status = .ok ∧ s.phase = .idle := by
  have hnil : s.unsent = [] := List.eq_nil_of_length_eq_zero (by rw [← h.turns, ha, List.count_nil])
  obtain ⟨hp, hst⟩ := completed_of_unsent_nil h.sending hnil
  exact ⟨by rw [← h.log, hnil, List.append_nil], hst, hp⟩

end

/-- A `SEND` that has started runs to its end: the frame is out, and the queue is longer by what arrived (R86). -/
theorem sending_runs_to_end {start : State} (h : start.Sending) (hc : ∀ e ∈ start.agenda, e.calm = true)
    (hn : start.agenda.count .block = start.unsent.length) :
    ∃ t, steps start.agenda.length start = .next t ∧ t.besideSend = start.besideSend ∧
      t.txlog = start.txlog ++ start.unsent ∧ t.status = .ok ∧ t.phase = .idle ∧
      ∃ more, t.rxq = start.rxq ++ more ∧ more.Sublist (arrivals start.agenda) ∧
        (start.cfg.rxqCap = none → more = arrivals start.agenda) := by
  have hturn (s : State) (e : Turn) (later : List Turn) (ha : s.agenda = e :: later) (hs : SendRun start s) :
      ∃ t, step s = .next t ∧ t.agenda = later ∧ SendRun start t := by
    by_cases hb : e = .block
    · exact hs.block (hb ▸ ha)
    · exact hs.outside ha hb
  obtain ⟨t, ht, hta, hrun⟩ := steps_agenda hturn (.refl h hc hn)
  obtain ⟨hlog, hstatus, hphase⟩ := hrun.finished hta
  obtain ⟨past, more, harr, hq, hsub, hall⟩ := hrun.queue
  rw [hta, arrivals, List.append_nil] at harr
  subst harr
  exact ⟨t, ht, hrun.beside, hlog, hstatus, hphase, more, hq, hsub, hall⟩

/-- The state right after a `SEND` of these bytes was accepted (R82). -/
def State.sendStarted (s : State) (bytes : List Byte) : State :=
  { s with
    txlen := BitVec.ofNat 16 bytes.length, pay := bytes, tseq := s.seq, seq := s.seq + 1
    cks := 0x00, idx := 0, status := .busy, phase := .txHdr }

/-- At its start the whole frame is to come (R86). -/
theorem unsent_sendStarted (s : State) (cp data : List Byte) :
    (s.sendStarted (cp ++ data)).unsent = encodeV2 s.seq cp data := by
  rw [← closedBy_framePre, framePre, unsent_txHdr rfl]
  rfl

theorem sending_sendStarted {s : State} {bytes : List Byte} (hr : s.txReady = true) (hn : bytes.length ≤ 65535) :
    (s.sendStarted bytes).Sending where
  ready := hr
  payLength := (ofNat_toNat_of_le hn).symm
  position := .inl ⟨rfl, (by decide : (0 : Half).toNat < 5)⟩

/-- The turn of the command port starts the `SEND` offered there (R72, R82). -/
theorem commandTurn_send {s : State} {cp data : List Byte} {later : List (List CmdWord)} (hp : s.phase = .idle)
    (hn : cp.length + data.length ≤ 65535)
    (hc : s.cmdPort = [sendWord (BitVec.ofNat 16 cp.length) (BitVec.ofNat 16 data.length) (cp ++ data)] :: later) :
    commandTurn s = .next (State.sendStarted { s with cmdPort := later } (cp ++ data)) := by
  have hcp : (BitVec.ofNat 16 cp.length).toNat = cp.length := ofNat_toNat_of_le (by omega)
  have hdata : (BitVec.ofNat 16 data.length).toNat = data.length := ofNat_toNat_of_le (by omega)
  have hd : decode (.command [sendWord (BitVec.ofNat 16 cp.length) (BitVec.ofNat 16 data.length) (cp ++ data)]) =
      .ok (.send (BitVec.ofNat 16 cp.length) (BitVec.ofNat 16 data.length) (cp ++ data)) := rfl
  rw [commandTurn_of_decode hc hd, exec_send_of_idle (s := { s with cmdPort := later }) _ _ _ hp,
    acceptSend_of_exact _ (by omega) (by simp [hcp, hdata]), State.sendStarted]

/-- Settles O14: the turn of the command port starts the `SEND`, which then runs to its end. -/
theorem sendEmitsItsFrame : Obligations.SendEmitsItsFrame := by
  intro s cp data later evs hp hr hn hc ha hcalm hcount
  have hfirst : step s = .next (State.sendStarted { s with agenda := evs, cmdPort := later } (cp ++ data)) := by
    rw [step_of_agenda_cons ha]
    exact commandTurn_send (s := { s with agenda := evs }) hp hn hc
  have hunsent := unsent_sendStarted { s with agenda := evs, cmdPort := later } cp data
  have hstart := sending_sendStarted (s := { s with agenda := evs, cmdPort := later }) hr
    (List.length_append.trans_le hn)
  obtain ⟨t, ht, hbeside, hlog, hstatus, hphase, more, hq, hsub, hall⟩ := sending_runs_to_end hstart hcalm
    (by rw [hunsent, encodeV2_length]; exact hcount)
  obtain ⟨-, hseq, ⟨hlen, hbody⟩, htimer, hport⟩ := fields_of_besideSend_eq hbeside
  rw [hunsent] at hlog
  exact ⟨t, by rw [Nat.add_comm, steps_succ _ hfirst]; exact ht, hlog, hseq, hstatus, hphase, hlen, hbody,
    ⟨more, hq, hsub⟩, fun hcap => hall hcap ▸ hq, htimer, hport⟩

end Sys2Proof.Machine
end

section
/-! The acceptance of `AWAIT` and its steps, one by one (R101 to R111, R117): each is a transition of `BlockMove` or the
acceptance that the laws already describe. -/

namespace Sys2Proof.Machine

/-! ### The acceptance (R101) -/

theorem exec_await_of_idle {s : State} (m : Half) (n : Nat) (hp : s.phase = .idle) :
    exec (.await m n) s = .next (acceptAwait m n s) :=
  whenIdle_idle _ _ hp

/-- The state right after an `AWAIT` with admissible `maxlen` was accepted (R101; log 20). -/
def State.awaitStarted (s : State) (m : Half) (n : Nat) : State :=
  { s.forgetBody with maxlen := m, timer := n % 2 ^ s.cfg.timerW, respLen := 0, status := .busy, phase := .rxWait }

theorem acceptAwait_of_le {s : State} {m : Half} (n : Nat) (hm : m.toNat ≤ s.cfg.bufCap.val) :
    acceptAwait m n s = s.awaitStarted m n :=
  ((acceptAwait_cases m n s).resolve_left fun h => Nat.not_lt.mpr hm h.1).2

/-- Settles O17: the two things the acceptance of `AWAIT` can do, each under its bound. -/
theorem awaitAccepted : Obligations.AwaitAccepted := by
  intro s m n hp hn
  rw [exec_await_of_idle m n hp]
  refine ⟨fun hover => ?_, fun hm => ?_⟩
  · obtain ⟨-, h⟩ := (acceptAwait_cases m n s).resolve_right fun h => Nat.not_lt.mpr h.1 hover
    rw [h, State.refuse]
  · rw [acceptAwait_of_le n hm, State.awaitStarted, Nat.mod_eq_of_lt hn]

/-! ### The steps (R102 to R110) -/

/-- At a waiting point with time left and without its data no transition is enabled (R162). -/
theorem State.DataMissing.stalled {s : State} (hd : s.DataMissing) (ht : 0 < s.timer) : s.Stalled := by
  unfold State.Stalled
  unfold State.DataMissing at hd
  split <;> simp_all [State.DataMissing]

theorem dataMissing_rxWait {s : State} (hp : s.phase = .rxWait) : s.DataMissing ↔ s.rxq.length < 6 := by
  simp only [State.DataMissing, hp]

theorem dataMissing_rxBody {s : State} (hp : s.phase = .rxBody) : s.DataMissing ↔ s.rxq = [] := by
  simp only [State.DataMissing, hp]

theorem dataMissing_rxCks {s : State} (hp : s.phase = .rxCks) : s.DataMissing ↔ s.rxq = [] := by
  simp only [State.DataMissing, hp]

/-- Settles O19: six bytes enable the transition to `RX_HDR`; with fewer the waiting point lacks its data. -/
theorem waitStep : Obligations.WaitStep := by
  intro s hp
  exact ⟨fun h6 => internal_of_blockMove (.rxStart hp h6),
    fun h6 h0 => internal_of_timeout ((dataMissing_rxWait hp).mpr h6) h0,
    fun h6 ht => internal_of_stalled (((dataMissing_rxWait hp).mpr h6).stalled ht)⟩

/-- Settles O20: the header with the byte latched at `IDX`. -/
theorem headerStepLatches : Obligations.HeaderStepLatches := by
  intro s b rest hp hq hi
  exact ⟨s.hdr.latch s.idx.toNat b, internal_of_blockMove (.rxHeader hp hq hi), Header.bytes_latch b hi⟩

theorem Header.structureOk_iff {h : Header} : h.structureOk = true ↔ h.start = startByte ∧ h.token = tokenByte := by
  simp [Header.structureOk]

theorem Header.sequenceOk_iff {h : Header} {c : Byte} : h.sequenceOk c = true ↔ h.sequence + 1 = c := by
  simp [Header.sequenceOk]

theorem Header.length_toNat (h : Header) : h.length.toNat = h.lenHi.toNat * 256 + h.lenLo.toNat :=
  joinBytes_toNat _ _

/-- Settles O21: each of the four outcomes of the checks is a transition of its own. -/
theorem headerChecksInOrder : Obligations.HeaderChecksInOrder := by
  intro s hp declared sized
  have hd : declared = s.hdr.length.toNat := s.hdr.length_toNat.symm
  have hsized : sized = { s with size := s.hdr.length } := by simp [sized, hd]
  rw [hsized, hd]
  by_cases h1 : s.hdr.start ≠ 0x1B ∨ s.hdr.token ≠ 0x0E
  · rw [if_pos h1]
    refine internal_of_blockMove (.rxMalformed hp (Bool.eq_false_iff.mpr fun h => ?_))
    obtain ⟨hs, ht⟩ := Header.structureOk_iff.mp h
    exact h1.elim (· hs) (· ht)
  have hs : s.hdr.structureOk = true := Header.structureOk_iff.mpr ((not_or.mp h1).imp not_not.mp not_not.mp)
  rw [if_neg h1]
  by_cases h2 : s.hdr.sequence + 1 ≠ s.seq
  · rw [if_pos h2]
    have hq : s.hdr.sequenceOk s.seq = false := Bool.eq_false_iff.mpr fun h => h2 (Header.sequenceOk_iff.mp h)
    exact internal_of_blockMove (.rxWrongSequence hp hs hq)
  have hq : s.hdr.sequenceOk s.seq = true := Header.sequenceOk_iff.mpr (not_not.mp h2)
  rw [if_neg h2]
  by_cases h3 : s.maxlen.toNat < s.hdr.length.toNat
  · rw [if_pos h3]
    exact internal_of_blockMove (.rxTooLarge hp hs hq h3)
  · rw [if_neg h3, internal_of_blockMove (.rxHeaderPassed hp hs hq (Nat.not_lt.mp h3))]
    have h0 : s.hdr.length = 0 ↔ s.hdr.length.toNat = 0 := BitVec.toNat_eq
    simp only [State.passHeader, h0]

/-- Settles O22: the byte is written at `IDX` and nowhere else; an empty queue is a waiting point without its data. -/
theorem bodyStepStores : Obligations.BodyStepStores := by
  intro s hp
  refine ⟨fun b rest hq hi => ⟨s.storeByte b rest, internal_of_blockMove (.rxBody hp hq hi), rfl, ?_, fun j hj => ?_⟩,
    fun hq h0 => internal_of_timeout ((dataMissing_rxBody hp).mpr hq) h0,
    fun hq ht => internal_of_stalled (((dataMissing_rxBody hp).mpr hq).stalled ht)⟩
  · exact (bodyByte_writeBody s _ b _).trans (if_pos rfl)
  · exact (bodyByte_writeBody s _ b j).trans (if_neg hj)

/-- Settles O23: the two judgements are transitions; what `CKS` is comes from the receive invariant. -/
theorem checksumStepJudges : Obligations.ChecksumStepJudges := by
  intro s hp
  refine ⟨fun rest hq => internal_of_blockMove (.rxAccepted hp hq),
    fun b rest hq hb => internal_of_blockMove (.rxMismatch hp hq hb),
    fun hq h0 => internal_of_timeout ((dataMissing_rxCks hp).mpr hq) h0,
    fun hq ht => internal_of_stalled (((dataMissing_rxCks hp).mpr hq).stalled ht),
    fun h => ⟨?_, fun hq h0 => h.emptyBody hp h0 hq⟩⟩
  rw [h.checksum (by rw [hp]; rfl) (by rw [hp]; nofun), State.consumed, hp]

/-! ### What the steps leave alone (R111, R117) -/

/-- The state without what the block writes during an `AWAIT` (R101 to R110). -/
def State.besideAwait (s : State) : State :=
  { s with
    phase := .idle, idx := 0, cks := 0, hdr := ⟨0, 0, 0, 0, 0⟩, size := 0, status := .ok, respLen := 0, body := []
    fresh := 0, rxq := [] }

/-- The transitions of an `AWAIT` change nothing else. -/
theorem BlockMove.besideAwait {s t : State} (hm : BlockMove s t) (hr : s.phase.isRx = true) :
    t.besideAwait = s.besideAwait := by
  have hn {p : Phase} (hp : s.phase = p) (hi : p.isRx = false) : False := by simp [hp, hi] at hr
  cases hm with
  | stalled _ | timeout _ _ | rxStart _ _ | rxHeader _ _ _ | rxMalformed _ _ | rxWrongSequence _ _ _
  | rxTooLarge _ _ _ _ | rxHeaderPassed _ _ _ _ | rxBody _ _ _ | rxAccepted _ _ | rxMismatch _ _ _ => rfl
  | txHeader hp _ _ _ | txHeaderLast hp _ _ _ | txBody hp _ _ _ | txBodyLast hp _ _ _ | txChecksum hp _
  | flDiscard hp _ _ | flLast hp _ _ => exact (hn hp rfl).elim

/-- `RESP_LEN` is written by completion with `OK` only, and cleared by a failure (R22). -/
theorem BlockMove.respLen_cases {s t : State} (hm : BlockMove s t) :
    t.respLen = s.respLen ∨ t.respLen = 0 ∨ t.status = .ok := by
  cases hm with
  | timeout _ _ | rxMalformed _ _ | rxWrongSequence _ _ _ | rxTooLarge _ _ _ _ | rxMismatch _ _ _ =>
    exact .inr (.inl rfl)
  | rxAccepted _ _ => exact .inr (.inr rfl)
  | stalled _ | txHeader _ _ _ _ | txHeaderLast _ _ _ _ | txBody _ _ _ _ | txBodyLast _ _ _ _ | txChecksum _ _
  | rxStart _ _ | rxHeader _ _ _ | rxHeaderPassed _ _ _ _ | rxBody _ _ _ | flDiscard _ _ _ | flLast _ _ _ =>
    exact .inl rfl

/-- Settles O30: what is beside an `AWAIT` stays, and `RESP_LEN` was 0 before. -/
theorem awaitLeavesAlone : Obligations.AwaitLeavesAlone := by
  intro s t hi hr hst
  have hm := blockMove_of_internal hst
  have hb := hm.besideAwait hr
  refine ⟨(congrArg State.seq hb :), (congrArg State.txlog hb :), (congrArg State.cmdPort hb :),
    (congrArg State.rdOut hb :), (congrArg State.timer hb :), (congrArg State.maxlen hb :),
    hm.rxq_cases.imp id And.right, ?_⟩
  rcases hm.respLen_cases with h | h | h
  · exact .inl (h.trans (hi.nothingReadable hr))
  · exact .inl h
  · exact .inr h

end Sys2Proof.Machine
end

section
/-! The function `Await` of R113 as a relation: one constructor per way an `AWAIT` can end, each over a byte string put
together from the parts the rule speaks of. -/

namespace Sys2Proof.Machine

/-! ### Header registers and header bytes (R16, R60) -/

/-- The header passes the three checks (R105 to R107) for `SEQ = c` and `MAXLEN = m`. -/
structure Header.Passes (h : Header) (c : Byte) (m : Half) : Prop where
  structureOk : h.structureOk = true
  sequenceOk : h.sequenceOk c = true
  length : h.length.toNat ≤ m.toNat

@[simp] theorem Header.bytes_length (h : Header) : h.bytes.length = 5 := rfl

/-- The registers after a header with this sequence byte and length field was latched (R60, R103). -/
def frameHeader (q : Byte) (len : Half) : Header := ⟨startByte, q, highByte len, lowByte len, tokenByte⟩

theorem bytes_frameHeader (q : Byte) (len : Half) : (frameHeader q len).bytes = headerBytes q len := rfl

@[simp] theorem length_frameHeader (q : Byte) (len : Half) : (frameHeader q len).length = len := joinBytes_split len

/-- A header with the two constants is that of a frame (R60, R105). -/
theorem Header.eq_frameHeader {h : Header} (hs : h.structureOk = true) : h = frameHeader h.sequence h.length := by
  obtain ⟨h0, h4⟩ := structureOk_iff.mp hs
  cases h
  simp_all [frameHeader, Header.length]

theorem passes_frameHeader {q c : Byte} {len m : Half} (hq : q + 1 = c) (hl : len.toNat ≤ m.toNat) :
    (frameHeader q len).Passes c m where
  structureOk := Header.structureOk_iff.mpr ⟨rfl, rfl⟩
  sequenceOk := Header.sequenceOk_iff.mpr hq
  length := by rwa [length_frameHeader]

/-- Six bytes or more are a header and a rest that is not empty. -/
theorem exists_header_append {q : List Byte} (h6 : 6 ≤ q.length) :
    ∃ (h : Header) (r : List Byte), q = h.bytes ++ r ∧ r ≠ [] := by
  match q with
  | b0 :: b1 :: b2 :: b3 :: b4 :: b5 :: rest => exact ⟨⟨b0, b1, b2, b3, b4⟩, b5 :: rest, rfl, nofun⟩

/-! ### The relation (R113) -/

section
variable {c : Byte} {m : Half}

/-- How an `AWAIT` ends on a queue that gets no more bytes (R113): code, body handed over and what stays queued. -/
inductive AwaitOutcome (c : Byte) (m : Half) : List Byte → Code × List Byte × List Byte → Prop where
  | short {q : List Byte} : q.length < 6 → AwaitOutcome c m q (.timeout, [], q)
  | malformed {h : Header} {r : List Byte} : r ≠ [] → h.structureOk = false →
      AwaitOutcome c m (h.bytes ++ r) (.malformedHeader, [], r)
  | wrongSequence {h : Header} {r : List Byte} : r ≠ [] → h.structureOk = true → h.sequenceOk c = false →
      AwaitOutcome c m (h.bytes ++ r) (.sequenceMismatch, [], r)
  | tooLarge {h : Header} {r : List Byte} : r ≠ [] → h.structureOk = true → h.sequenceOk c = true →
      m.toNat < h.length.toNat → AwaitOutcome c m (h.bytes ++ r) (.responseTooLarge, [], r)
  | cutShort {h : Header} {r : List Byte} : r ≠ [] → h.Passes c m → r.length ≤ h.length.toNat →
      AwaitOutcome c m (h.bytes ++ r) (.timeout, [], [])
  | mismatch {h : Header} {body rest : List Byte} {b : Byte} : h.Passes c m → body.length = h.length.toNat →
      b ≠ xorAll (h.bytes ++ body) → AwaitOutcome c m (h.bytes ++ body ++ b :: rest) (.checksumMismatch, [], rest)
  | accepted {h : Header} {body rest : List Byte} : h.Passes c m → body.length = h.length.toNat →
      AwaitOutcome c m (h.bytes ++ body ++ xorAll (h.bytes ++ body) :: rest) (.ok, body, rest)

/-- The function of R113 on a string that begins with a header. -/
theorem awaitResult_header_append {h : Header} {r : List Byte} (hr : r ≠ []) :
    awaitResult c m (h.bytes ++ r) =
      if h.structureOk = false then (.malformedHeader, [], r)
      else if h.sequenceOk c = false then (.sequenceMismatch, [], r)
      else if m.toNat < h.length.toNat then (.responseTooLarge, [], r)
      else if r.length < h.length.toNat + 1 then (.timeout, [], [])
      else if xorAll (h.bytes ++ r.take h.length.toNat) ≠ r.getD h.length.toNat 0 then
        (.checksumMismatch, [], r.drop (h.length.toNat + 1))
      else (.ok, r.take h.length.toNat, r.drop (h.length.toNat + 1)) := by
  have h6 : ¬ (h.bytes ++ r).length < 6 := by
    have := List.length_pos_iff.mpr hr
    simp only [List.length_append, Header.bytes_length]
    omega
  have hs : h.structureOk = false ↔ h.start ≠ startByte ∨ h.token ≠ tokenByte := by
    rw [Bool.eq_false_iff, Ne, Header.structureOk_iff, not_and_or]
  have hq : h.sequenceOk c = false ↔ h.sequence + 1 ≠ c := by
    rw [Bool.eq_false_iff, Ne, Header.sequenceOk_iff]
  rw [awaitResult, if_neg h6]
  simp only [hs, hq]
  rfl

/-- The relation describes the function. -/
theorem AwaitOutcome.result_eq {q : List Byte} {r : Code × List Byte × List Byte} (h : AwaitOutcome c m q r) :
    awaitResult c m q = r := by
  cases h with
  | short h6 => rw [awaitResult, if_pos h6]
  | malformed hr h1 => rw [awaitResult_header_append hr, if_pos h1]
  | wrongSequence hr h1 h2 => simp [awaitResult_header_append hr, h1, h2]
  | tooLarge hr h1 h2 h3 => simp [awaitResult_header_append hr, h1, h2, h3]
  | cutShort hr hp hl =>
    simp [awaitResult_header_append hr, hp.structureOk, hp.sequenceOk, Nat.not_lt.mpr hp.length, Nat.lt_succ_of_le hl]
  | mismatch hp hl hb =>
    rw [List.append_assoc, awaitResult_header_append (by simp)]
    simpa [hp.structureOk, hp.sequenceOk, ← hl, Nat.not_lt.mpr (hl.trans_le hp.length)] using hb.symm
  | accepted hp hl =>
    rw [List.append_assoc, awaitResult_header_append (by simp)]
    simp [hp.structureOk, hp.sequenceOk, ← hl, Nat.not_lt.mpr (hl.trans_le hp.length)]

/-- Every byte string has an outcome. -/
theorem exists_awaitOutcome (c : Byte) (m : Half) (q : List Byte) : ∃ r, AwaitOutcome c m q r := by
  by_cases h6 : q.length < 6
  · exact ⟨_, .short h6⟩
  obtain ⟨h, r, rfl, hr⟩ := exists_header_append (Nat.not_lt.mp h6)
  cases h1 : h.structureOk
  · exact ⟨_, .malformed hr h1⟩
  cases h2 : h.sequenceOk c
  · exact ⟨_, .wrongSequence hr h1 h2⟩
  by_cases h3 : m.toNat < h.length.toNat
  · exact ⟨_, .tooLarge hr h1 h2 h3⟩
  have hp : h.Passes c m := ⟨h1, h2, Nat.not_lt.mp h3⟩
  by_cases h4 : r.length ≤ h.length.toNat
  · exact ⟨_, .cutShort hr hp h4⟩
  have hl : (r.take h.length.toNat).length = h.length.toNat := List.length_take_of_le (by omega)
  have hsplit : h.bytes ++ r =
      h.bytes ++ r.take h.length.toNat ++ r[h.length.toNat]'(by omega) :: r.drop (h.length.toNat + 1) := by
    rw [List.append_assoc, List.cons_getElem_drop_succ, List.take_append_drop]
  rw [hsplit]
  by_cases hb : r[h.length.toNat]'(by omega) = xorAll (h.bytes ++ r.take h.length.toNat)
  · rw [hb]
    exact ⟨_, .accepted hp hl⟩
  · exact ⟨_, .mismatch hp hl hb⟩

/-- The relation is the function of R113. -/
theorem awaitResult_eq_iff {q : List Byte} {r : Code × List Byte × List Byte} :
    awaitResult c m q = r ↔ AwaitOutcome c m q r := by
  refine ⟨fun h => ?_, AwaitOutcome.result_eq⟩
  obtain ⟨r', hr'⟩ := exists_awaitOutcome c m q
  rw [← h, hr'.result_eq]
  exact hr'

/-- Except for `Timeout`, bytes behind the ones that decided the outcome stay queued and change nothing else. -/
theorem AwaitOutcome.append {q body rest : List Byte} {code : Code} (h : AwaitOutcome c m q (code, body, rest))
    (ht : code ≠ .timeout) (late : List Byte) : AwaitOutcome c m (q ++ late) (code, body, rest ++ late) := by
  cases h with
  | short _ | cutShort _ _ _ => exact absurd rfl ht
  | malformed hr h1 => rw [List.append_assoc]; exact .malformed (by simp [hr]) h1
  | wrongSequence hr h1 h2 => rw [List.append_assoc]; exact .wrongSequence (by simp [hr]) h1 h2
  | tooLarge hr h1 h2 h3 => rw [List.append_assoc]; exact .tooLarge (by simp [hr]) h1 h2 h3
  | mismatch hp hl hb => rw [List.append_assoc, List.cons_append]; exact .mismatch hp hl hb
  | accepted hp hl => rw [List.append_assoc, List.cons_append]; exact .accepted hp hl

/-- What is accepted is a well-formed frame that answers `SEQ` and fits `MAXLEN` (R114 (a)). -/
theorem AwaitOutcome.frame_of_ok {q body rest : List Byte} (h : AwaitOutcome c m q (.ok, body, rest)) :
    ∃ f, q = f ++ rest ∧ frameWellFormed f = true ∧ (parseFrame f).1 + 1 = c ∧ (parseFrame f).2 = body ∧
      body.length ≤ m.toNat := by
  cases h with
  | @accepted h _ _ hp hl =>
    have hf : h.bytes ++ body ++ [xorAll (h.bytes ++ body)] =
        wireBytes h.sequence h.length body (xorAll (h.bytes ++ body)) := by
      rw [wireBytes, ← bytes_frameHeader, ← h.eq_frameHeader hp.structureOk]
    refine ⟨_, List.append_cons _ _ _, ?_, ?_⟩
    · refine frameWellFormed_iff.mpr ⟨hasFrameShape_iff.mpr ⟨_, _, _, _, hl, hf⟩, ?_⟩
      exact (xorAll_append_singleton_eq_zero_iff _ _).mpr rfl
    · rw [hf, parseFrame_wireBytes]
      exact ⟨Header.sequenceOk_iff.mp hp.sequenceOk, rfl, hl ▸ hp.length⟩

/-- A good frame is accepted (R114 (b)). -/
theorem awaitOutcome_encodeV2 {q : Byte} {body : List Byte} (rest : List Byte) (hq : q + 1 = c)
    (hl : body.length ≤ m.toNat) : AwaitOutcome c m (encodeV2 q body [] ++ rest) (.ok, body, rest) := by
  have hlen : (BitVec.ofNat 16 body.length).toNat = body.length := ofNat_toNat_of_le (by omega)
  have hframe : encodeV2 q body [] ++ rest = (frameHeader q (.ofNat 16 body.length)).bytes ++ body ++
      xorAll ((frameHeader q (.ofNat 16 body.length)).bytes ++ body) :: rest := by
    rw [encodeV2_eq, List.append_nil, framePre, bytes_frameHeader, List.append_assoc, List.singleton_append]
  rw [hframe]
  exact .accepted (passes_frameHeader hq (hlen.trans_le hl)) (by rw [length_frameHeader, hlen])

end

end Sys2Proof.Machine
end

section
/-! An `AWAIT` under way (R102 to R110). The bytes it has consumed followed by those still queued make the same string
all along; its outcome is that of the function `Await` on this string, and every transition brings the end nearer. -/

namespace Sys2Proof.Machine

/-! ### The bytes consumed (R103, R108) -/

section
variable {s : State}

theorem consumed_rxWait (hp : s.phase = .rxWait) : s.consumed = [] := by
  simp only [State.consumed, hp]

theorem consumed_rxHdr (hp : s.phase = .rxHdr) : s.consumed = s.hdr.bytes.take s.idx.toNat := by
  simp only [State.consumed, hp]

theorem consumed_rxChk (hp : s.phase = .rxChk) : s.consumed = s.hdr.bytes := by
  simp only [State.consumed, hp]

theorem consumed_rxBody (hp : s.phase = .rxBody) :
    s.consumed = s.hdr.bytes ++ (List.range s.idx.toNat).map s.bodyByte := by
  simp only [State.consumed, hp]

theorem consumed_rxCks (hp : s.phase = .rxCks) :
    s.consumed = s.hdr.bytes ++ (List.range s.size.toNat).map s.bodyByte := by
  simp only [State.consumed, hp]

theorem consumed_latchByte {b : Byte} {rest : List Byte} (hp : s.phase = .rxHdr) (hi : s.idx.toNat < 5) :
    (s.latchByte b rest).consumed = s.consumed ++ [b] := by
  have hn : (s.idx + 1).toNat = s.idx.toNat + 1 := by bv_omega
  rw [consumed_rxHdr hp, ← Header.take_succ_latch b hi, ← hn]
  by_cases h5 : s.idx + 1 = 5
  · rw [consumed_rxChk (if_pos h5), h5]
    rfl
  · rw [consumed_rxHdr (if_neg h5)]
    rfl

theorem consumed_passHeader (hp : s.phase = .rxChk) : s.passHeader.consumed = s.consumed := by
  rw [consumed_rxChk hp]
  by_cases h0 : s.hdr.length = 0
  · rw [consumed_rxCks (if_pos h0)]
    simp [State.passHeader, h0]
  · rw [consumed_rxBody (if_neg h0)]
    simp [State.passHeader]

theorem consumed_storeByte {b : Byte} {rest : List Byte} (hp : s.phase = .rxBody) (hi : s.idx.toNat < s.size.toNat) :
    (s.storeByte b rest).consumed = s.consumed ++ [b] := by
  have hn : (s.idx + 1).toNat = s.idx.toNat + 1 := by bv_omega
  rw [consumed_rxBody hp, List.append_assoc, ← map_bodyByte_writeBody, ← hn]
  by_cases hd : s.idx + 1 = s.size
  · rw [consumed_rxCks (if_pos hd), hd]
    rfl
  · rw [consumed_rxBody (if_neg hd)]
    rfl

end

/-! ### An `AWAIT` in progress -/

/-- Where an `AWAIT` with `SEQ = c` and `MAXLEN = m` can stand: past `RX_CHK` the header has passed its checks (R28). -/
def State.AwaitPosition (c : Byte) (m : Half) (s : State) : Prop :=
  match s.phase with
  | .rxWait | .rxChk => True
  | .rxHdr => s.idx.toNat < 5
  | .rxBody => s.hdr.Passes c m ∧ s.size = s.hdr.length ∧ s.idx.toNat < s.size.toNat
  | .rxCks => s.hdr.Passes c m ∧ s.size = s.hdr.length
  | .idle | .txHdr | .txBody | .txCks | .fl => False

section
variable {c : Byte} {m : Half} {s : State}

theorem awaitPosition_rxHdr (hp : s.phase = .rxHdr) : s.AwaitPosition c m ↔ s.idx.toNat < 5 := by
  simp only [State.AwaitPosition, hp]

theorem awaitPosition_rxChk (hp : s.phase = .rxChk) : s.AwaitPosition c m := by
  simp only [State.AwaitPosition, hp]

theorem awaitPosition_rxBody (hp : s.phase = .rxBody) :
    s.AwaitPosition c m ↔ s.hdr.Passes c m ∧ s.size = s.hdr.length ∧ s.idx.toNat < s.size.toNat := by
  simp only [State.AwaitPosition, hp]

theorem awaitPosition_rxCks (hp : s.phase = .rxCks) :
    s.AwaitPosition c m ↔ s.hdr.Passes c m ∧ s.size = s.hdr.length := by
  simp only [State.AwaitPosition, hp]

end

/-- An `AWAIT` in progress on the byte string `q`, consumed and queued bytes together. -/
structure State.Awaiting (c : Byte) (m : Half) (q : List Byte) (s : State) : Prop where
  seq : s.seq = c
  maxlen : s.maxlen = m
  bound : m.toNat ≤ s.cfg.bufCap.val
  busy : s.status = .busy
  bytes : s.consumed ++ s.rxq = q
  checksum : s.phase ≠ .rxWait → s.cks = xorAll s.consumed
  enough : s.phase ≠ .rxWait → 6 ≤ q.length
  position : s.AwaitPosition c m

/-- The turns of the block that an `AWAIT` in this phase still takes without consuming a byte. -/
def Phase.turnsAside : Phase → Nat
  | .rxWait => 2
  | .rxHdr | .rxChk => 1
  | .idle | .txHdr | .txBody | .txCks | .rxBody | .rxCks | .fl => 0

/-- How many turns of the block an `AWAIT` can still take if it consumes at most `n` bytes. -/
def State.turnsLeft (n : Nat) (s : State) : Nat :=
  if s.phase.isRx then n - s.consumed.length + s.phase.turnsAside else 0

/-- What a transition of the `AWAIT` on `q` does: it goes on, or it has ended as the function `Await` says (R113). -/
structure AwaitMove (c : Byte) (m : Half) (q : List Byte) (s t : State) : Prop where
  move : BlockMove s t
  goesOn : t.Awaiting c m q ∨ t.shows (awaitResult c m q)
  nearer : ∀ n, s.consumed.length < n → t.turnsLeft n < s.turnsLeft n
  timeout : t.status = .timeout → s.DataMissing

section
variable {c : Byte} {m : Half} {q : List Byte} {s t : State}

theorem State.Awaiting.isRx (h : s.Awaiting c m q) : s.phase.isRx = true := by
  have := h.position
  cases hp : s.phase <;> simp_all [State.AwaitPosition, Phase.isRx]

theorem turnsLeft_le (n : Nat) (s : State) : s.turnsLeft n ≤ n + 2 := by
  have : s.phase.turnsAside ≤ 2 := by cases s.phase <;> decide
  unfold State.turnsLeft
  split <;> omega

theorem turnsLeft_of_idle (n : Nat) (hp : s.phase = .idle) : s.turnsLeft n = 0 := by
  simp [State.turnsLeft, hp, Phase.isRx]

/-- The turn that ends the `AWAIT` (R113). -/
theorem AwaitMove.ended {r : Code × List Byte × List Byte} (h : s.Awaiting c m q) (hm : BlockMove s t)
    (ho : AwaitOutcome c m q r) (hs : t.shows r) (ht : r.1 = .timeout → s.DataMissing) : AwaitMove c m q s t where
  move := hm
  goesOn := .inr (ho.result_eq ▸ hs)
  nearer n hn := by
    rw [turnsLeft_of_idle n hs.1, State.turnsLeft, if_pos h.isRx]
    omega
  timeout hst := ht (hs.2.1 ▸ hst)

/-- A turn that goes on has consumed a byte or none, and folded it into `CKS` (R14). -/
theorem AwaitMove.onward {bs : List Byte} (h : s.Awaiting c m q) (hm : BlockMove s t) (hbusy : t.status = .busy)
    (hc : t.consumed = s.consumed ++ bs) (hq : s.rxq = bs ++ t.rxq) (hcks : t.cks = xorAll t.consumed)
    (h6 : 6 ≤ q.length) (hpos : t.AwaitPosition c m)
    (hle : bs.length ≤ 1) (hlt : t.phase.turnsAside < s.phase.turnsAside + bs.length) : AwaitMove c m q s t := by
  have hb := hm.besideAwait h.isRx
  have ha : t.Awaiting c m q :=
    { seq := (congrArg State.seq hb :).trans h.seq
      maxlen := (congrArg State.maxlen hb :).trans h.maxlen
      bound := (congrArg State.cfg hb :) ▸ h.bound
      busy := hbusy
      bytes := by rw [hc, List.append_assoc, ← hq, h.bytes]
      checksum := fun _ => hcks
      enough := fun _ => h6
      position := hpos }
  refine ⟨hm, .inl ha, fun n hn => ?_, fun hst => ?_⟩
  · rw [State.turnsLeft, State.turnsLeft, if_pos h.isRx, if_pos ha.isRx, hc, List.length_append]
    omega
  · cases hbusy.symm.trans hst

theorem turnsAside_latchByte (s : State) (b : Byte) (rest : List Byte) :
    (s.latchByte b rest).phase.turnsAside = 1 := by
  unfold State.latchByte
  dsimp only
  split <;> rfl

theorem turnsAside_passHeader (s : State) : s.passHeader.phase.turnsAside = 0 := by
  unfold State.passHeader
  dsimp only
  split <;> rfl

theorem turnsAside_storeByte (s : State) (b : Byte) (rest : List Byte) :
    (s.storeByte b rest).phase.turnsAside = 0 := by
  unfold State.storeByte
  dsimp only
  split <;> rfl

theorem xorAll_snoc (bs : List Byte) (b : Byte) : xorAll (bs ++ [b]) = xorAll bs ^^^ b := by simp

/-- A failed `AWAIT` shows its code and nothing to read (R165). -/
theorem shows_fail (s : State) (code : Code) : (s.fail code).shows (code, [], s.rxq) :=
  ⟨rfl, rfl, rfl, nofun, rfl⟩

/-- The timer runs out at a waiting point: what has been consumed is no whole frame (R162). -/
theorem awaitMove_timeout (h : s.Awaiting c m q) (hd : s.DataMissing) (h0 : s.timer = 0)
    (ho : AwaitOutcome c m q (.timeout, [], s.rxq)) : AwaitMove c m q s (s.fail .timeout) :=
  .ended h (.timeout hd h0) ho (shows_fail s _) fun _ => hd

/-- Six bytes bring the step to `RX_HDR`; with fewer the timer has run out (R102). -/
theorem awaitMove_rxWait (h : s.Awaiting c m q) (hp : s.phase = .rxWait) (hd : s.DataMissing → s.timer = 0) :
    ∃ t, AwaitMove c m q s t := by
  have hc := consumed_rxWait hp
  have hq : s.rxq = q := by rw [← h.bytes, hc, List.nil_append]
  by_cases h6 : 6 ≤ s.rxq.length
  · refine ⟨_, .onward (bs := []) h (.rxStart hp h6) h.busy ?_ rfl rfl (hq ▸ h6) ?_ (Nat.zero_le 1) ?_⟩
    · rw [hc]; rfl
    · exact (by decide : (0 : Half).toNat < 5)
    · exact hp ▸ (by decide : Phase.rxHdr.turnsAside < Phase.rxWait.turnsAside + 0)
  · have hm := (dataMissing_rxWait hp).mpr (Nat.not_le.mp h6)
    have ho : AwaitOutcome c m q (.timeout, [], s.rxq) := by rw [hq]; exact .short (hq ▸ Nat.not_le.mp h6)
    exact ⟨_, awaitMove_timeout h hm (hd hm) ho⟩

/-- A header byte is always there to be latched (R103). -/
theorem awaitMove_rxHdr (h : s.Awaiting c m q) (hp : s.phase = .rxHdr) : ∃ t, AwaitMove c m q s t := by
  have hi : s.idx.toNat < 5 := (awaitPosition_rxHdr hp).mp h.position
  have hw : s.phase ≠ .rxWait := by rw [hp]; nofun
  have h6 := h.enough hw
  cases hq : s.rxq with
  | nil =>
    rw [← h.bytes, hq, List.append_nil, consumed_rxHdr hp, List.length_take] at h6
    omega
  | cons b rest =>
    have hc := consumed_latchByte (b := b) (rest := rest) hp hi
    refine ⟨_, .onward (bs := [b]) h (.rxHeader hp hq hi) h.busy hc hq ?_ h6 ?_ (Nat.le_refl 1) ?_⟩
    · rw [hc, xorAll_snoc, ← h.checksum hw]; rfl
    · by_cases h5 : s.idx + 1 = 5
      · exact awaitPosition_rxChk (if_pos h5)
      · have hnext : (s.idx + 1).toNat < 5 := by bv_omega
        exact (awaitPosition_rxHdr (if_neg h5)).mpr hnext
    · rw [turnsAside_latchByte, hp]
      exact Nat.lt_succ_self 1

/-- The three checks in their order (R104 to R107). -/
theorem awaitMove_rxChk (h : s.Awaiting c m q) (hp : s.phase = .rxChk) : ∃ t, AwaitMove c m q s t := by
  have hw : s.phase ≠ .rxWait := by rw [hp]; nofun
  have hc := consumed_rxChk hp
  have hq : s.hdr.bytes ++ s.rxq = q := hc ▸ h.bytes
  have hne : s.rxq ≠ [] := by
    intro hnil
    have h6 := h.enough hw
    rw [← hq, hnil, List.append_nil] at h6
    exact absurd h6 (Nat.not_le.mpr (Nat.lt_succ_self 5))
  cases h1 : s.hdr.structureOk
  · exact ⟨_, .ended h (.rxMalformed hp h1) (hq ▸ .malformed hne h1) (shows_fail s _) nofun⟩
  cases h2 : s.hdr.sequenceOk s.seq
  · exact ⟨_, .ended h (.rxWrongSequence hp h1 h2) (hq ▸ .wrongSequence hne h1 (h.seq ▸ h2)) (shows_fail s _) nofun⟩
  by_cases h3 : s.maxlen.toNat < s.hdr.length.toNat
  · exact ⟨_, .ended h (.rxTooLarge hp h1 h2 h3) (hq ▸ .tooLarge hne h1 (h.seq ▸ h2) (h.maxlen ▸ h3))
      (shows_fail { s with size := s.hdr.length } _) nofun⟩
  have hpass : s.hdr.Passes c m := ⟨h1, h.seq ▸ h2, h.maxlen ▸ Nat.not_lt.mp h3⟩
  have hc' := consumed_passHeader hp
  refine ⟨_, .onward (bs := []) h (.rxHeaderPassed hp h1 h2 (Nat.not_lt.mp h3)) h.busy ?_ rfl ?_ (h.enough hw) ?_
    (Nat.zero_le 1) ?_⟩
  · rw [hc', List.append_nil]
  · rw [hc', ← h.checksum hw]; rfl
  · by_cases h0 : s.hdr.length = 0
    · exact (awaitPosition_rxCks (if_pos h0)).mpr ⟨hpass, rfl⟩
    · have hpos : (0 : Half).toNat < s.hdr.length.toNat := by bv_omega
      exact (awaitPosition_rxBody (if_neg h0)).mpr ⟨hpass, rfl, hpos⟩
  · rw [turnsAside_passHeader, hp]
    exact Nat.lt_succ_self 0

/-- A header that passed, and a queue that has run out before the checksum byte. -/
theorem awaitOutcome_cutShort {bs : List Byte} (h : s.Awaiting c m q) (hw : s.phase ≠ .rxWait)
    (hpass : s.hdr.Passes c m) (hc : s.consumed = s.hdr.bytes ++ bs) (hl : bs.length ≤ s.hdr.length.toNat)
    (hnil : s.rxq = []) : AwaitOutcome c m q (.timeout, [], s.rxq) := by
  have hq : s.hdr.bytes ++ bs = q := by rw [← h.bytes, hnil, List.append_nil, hc]
  have hne : bs ≠ [] := by
    intro hbs
    have h6 := h.enough hw
    rw [← hq, hbs, List.append_nil] at h6
    exact absurd h6 (Nat.not_le.mpr (Nat.lt_succ_self 5))
  rw [hnil, ← hq]
  exact .cutShort hne hpass hl

/-- A body byte is stored; without one the timer has run out (R108). -/
theorem awaitMove_rxBody (h : s.Awaiting c m q) (hp : s.phase = .rxBody) (hd : s.DataMissing → s.timer = 0) :
    ∃ t, AwaitMove c m q s t := by
  have hw : s.phase ≠ .rxWait := by rw [hp]; nofun
  obtain ⟨hpass, hsize, hi⟩ : s.hdr.Passes c m ∧ s.size = s.hdr.length ∧ s.idx.toNat < s.size.toNat :=
    (awaitPosition_rxBody hp).mp h.position
  cases hq : s.rxq with
  | nil =>
    have hm := (dataMissing_rxBody hp).mpr hq
    refine ⟨_, awaitMove_timeout h hm (hd hm) (awaitOutcome_cutShort h hw hpass (consumed_rxBody hp) ?_ hq)⟩
    rw [List.length_map, List.length_range, ← hsize]
    exact hi.le
  | cons b rest =>
    have hc := consumed_storeByte (b := b) (rest := rest) hp hi
    have hbuf : s.idx.toNat < s.cfg.bufCap.val := hi.trans_le (hsize ▸ hpass.length.trans h.bound)
    refine ⟨_, .onward (bs := [b]) h (.rxBody hp hq hbuf) h.busy hc hq ?_ (h.enough hw) ?_ (Nat.le_refl 1) ?_⟩
    · rw [hc, xorAll_snoc, ← h.checksum hw]; rfl
    · by_cases hlast : s.idx + 1 = s.size
      · exact (awaitPosition_rxCks (if_pos hlast)).mpr ⟨hpass, hsize⟩
      · have hnext : (s.idx + 1).toNat < s.size.toNat := by bv_omega
        exact (awaitPosition_rxBody (if_neg hlast)).mpr ⟨hpass, hsize, hnext⟩
    · rw [turnsAside_storeByte, hp]
      exact Nat.lt_succ_self 0

/-- The checksum byte decides; without one the timer has run out (R109, R110). -/
theorem awaitMove_rxCks (h : s.Awaiting c m q) (hp : s.phase = .rxCks) (hd : s.DataMissing → s.timer = 0) :
    ∃ t, AwaitMove c m q s t := by
  have hw : s.phase ≠ .rxWait := by rw [hp]; nofun
  obtain ⟨hpass, hsize⟩ : s.hdr.Passes c m ∧ s.size = s.hdr.length :=
    (awaitPosition_rxCks hp).mp h.position
  have hc := consumed_rxCks hp
  have hl : ((List.range s.size.toNat).map s.bodyByte).length = s.hdr.length.toNat := by
    rw [List.length_map, List.length_range, hsize]
  cases hq : s.rxq with
  | nil =>
    have hm := (dataMissing_rxCks hp).mpr hq
    exact ⟨_, awaitMove_timeout h hm (hd hm) (awaitOutcome_cutShort h hw hpass hc hl.le hq)⟩
  | cons b rest =>
    have hcks : s.cks = xorAll (s.hdr.bytes ++ (List.range s.size.toNat).map s.bodyByte) := hc ▸ h.checksum hw
    have hbytes : s.hdr.bytes ++ (List.range s.size.toNat).map s.bodyByte ++ b :: rest = q := by
      rw [← hc, ← hq, h.bytes]
    by_cases hb : b = s.cks
    · have ho : AwaitOutcome c m q (.ok, (List.range s.size.toNat).map s.bodyByte, rest) := by
        rw [← hbytes, hb, hcks]
        exact .accepted hpass hl
      have hshows : ({ s.setRxq rest with respLen := s.size }.complete .ok).shows
          (.ok, (List.range s.size.toNat).map s.bodyByte, rest) := by
        refine ⟨rfl, rfl, by simp, fun i hi => ?_, rfl⟩
        rw [List.getD_eq_getElem _ _ hi, List.getElem_map, List.getElem_range]
        rfl
      exact ⟨_, .ended h (.rxAccepted hp (hb ▸ hq)) ho hshows nofun⟩
    · have ho : AwaitOutcome c m q (.checksumMismatch, [], rest) := hbytes ▸ .mismatch hpass hl (hcks ▸ hb)
      exact ⟨_, .ended h (.rxMismatch hp hq hb) ho (shows_fail (s.setRxq rest) _) nofun⟩

/-- The block takes a transition of the `AWAIT` unless it waits for data with time left (R102 to R110, R162). -/
theorem State.Awaiting.exists_move (h : s.Awaiting c m q) (hd : s.DataMissing → s.timer = 0) :
    ∃ t, AwaitMove c m q s t := by
  cases hp : s.phase
  case rxWait => exact awaitMove_rxWait h hp hd
  case rxHdr => exact awaitMove_rxHdr h hp
  case rxChk => exact awaitMove_rxChk h hp
  case rxBody => exact awaitMove_rxBody h hp hd
  case rxCks => exact awaitMove_rxCks h hp hd
  all_goals exact absurd h.isRx (by rw [hp]; decide)

end

end Sys2Proof.Machine
end

section
/-! The run of an accepted `AWAIT` (R111 to R114): bytes that come while it is in progress join the string it works on,
bytes that come after its end stay queued behind what it left. -/

namespace Sys2Proof.Machine

/-- The induction over a part of a run: what each of these turns keeps holds when they are used up. -/
theorem steps_turns {good : Turn → Prop} {P : List Turn → State → Prop}
    (hturn : ∀ e evs s later, good e → s.agenda = e :: later → P (e :: evs) s →
      ∃ t, step s = .next t ∧ t.agenda = later ∧ P evs t)
    {evs later : List Turn} (hgood : ∀ e ∈ evs, good e) {s : State} (ha : s.agenda = evs ++ later) (h : P evs s) :
    ∃ t, steps evs.length s = .next t ∧ t.agenda = later ∧ P [] t := by
  induction evs generalizing s with
  | nil => exact ⟨s, rfl, ha, h⟩
  | cons e evs ih =>
    obtain ⟨u, hu, hua, hP⟩ := hturn e evs s _ (hgood e List.mem_cons_self) ha h
    obtain ⟨t, ht, hta, hPt⟩ := ih (fun x hx => hgood x (List.mem_cons_of_mem _ hx)) hua hP
    exact ⟨t, by rw [List.length_cons, steps_succ _ hu, ht], hta, hPt⟩

/-- What a calm turn that is not the block's makes of a state: what arrives joins the queue, a read is answered, a tick
counts during an `AWAIT` (R18, R24, R74). -/
def State.outside (s : State) (e : Turn) (d : Option Half) : State :=
  { (s.arriveAll (arrivals [e])).answer d with
    timer := if s.phase.isRx then s.timer - [e].count .tick else s.timer }

theorem takeTurn_outside {e : Turn} (s : State) (hc : e.calm = true) (hb : e ≠ .block) :
    ∃ d, takeTurn e s = .next (s.outside e d) := by
  cases e with
  | block => exact absurd rfl hb
  | tick => exact ⟨s.rdOut, by simp [takeTurn, tickEvent, State.outside, arrivals, State.arriveAll, State.answer]⟩
  | arrive b => exact ⟨s.rdOut, by simp [takeTurn, State.outside, arrivals, State.arriveAll, State.answer]⟩
  | wire bs =>
    exact ⟨s.rdOut, by simp [takeTurn, wireTurn_eq, State.outside, arrivals, State.arriveAll, State.answer]⟩
  | read w =>
    obtain ⟨d, h⟩ := readTurn_total w s
    exact ⟨d, by simp [takeTurn, h, State.outside, arrivals, State.arriveAll, State.answer]⟩
  | command | rst | txReady r => cases hc

/-! ### In progress or ended -/

section
variable {c : Byte} {m : Half} {q late : List Byte} {s t : State}

/-- An `AWAIT` is in progress on the bytes `q`, or it has ended on them and the bytes `late` came after. -/
inductive AwaitStage (c : Byte) (m : Half) : List Byte → List Byte → State → Prop where
  | inProgress {q : List Byte} {s : State} : s.Awaiting c m q → AwaitStage c m q [] s
  | ended {q late rest body : List Byte} {code : Code} {s : State} : awaitResult c m q = (code, body, rest) →
      s.shows (code, body, rest ++ late) → AwaitStage c m q late s

theorem AwaitStage.of_shows (h : s.shows (awaitResult c m q)) : AwaitStage c m q [] s :=
  .ended rfl (by rwa [List.append_nil])

/-- The stage does not depend on the turns to come. -/
theorem AwaitStage.withAgenda (h : AwaitStage c m q late s) (later : List Turn) :
    AwaitStage c m q late { s with agenda := later } := by
  cases h with
  | inProgress h => exact .inProgress { h with }
  | ended hr hs => exact .ended hr hs

/-- Bytes that arrive join the string an `AWAIT` in progress works on, or stay behind one that has ended. -/
theorem AwaitStage.outside {more : List Byte} {e : Turn} (h : AwaitStage c m q late s)
    (hq : (s.arriveAll (arrivals [e])).rxq = s.rxq ++ more) (d : Option Half) :
    ∃ q' late', AwaitStage c m q' late' (s.outside e d) ∧ q <+: q' ∧ q' ++ late' = q ++ late ++ more := by
  cases h with
  | inProgress h =>
    refine ⟨q ++ more, [], .inProgress { h with bytes := ?_, enough := ?_ }, List.prefix_append _ _, by simp⟩
    · rw [← h.bytes, List.append_assoc, ← hq]
      rfl
    · intro hw
      rw [List.length_append]
      exact Nat.le_add_right_of_le (h.enough hw)
  | ended hr hs =>
    obtain ⟨hp, hst, hl, hb, hrxq⟩ := hs
    refine ⟨q, late ++ more, .ended hr ⟨hp, hst, hl, hb, ?_⟩, List.prefix_rfl, (List.append_assoc _ _ _).symm⟩
    refine hq.trans ?_
    rw [hrxq]
    exact List.append_assoc _ _ _

/-- What the block's turn does to an `AWAIT` in progress or ended. -/
structure AwaitTurn (s t : State) : Prop where
  timer : t.timer = s.timer
  isRx : t.phase.isRx = true → s.phase.isRx = true
  timeout : t.status = .timeout → s.status = .timeout ∨ s.DataMissing ∧ s.timer = 0
  nearer : (s.DataMissing → s.timer = 0) → ∀ n, s.consumed.length < n → t.turnsLeft n ≤ s.turnsLeft n - 1

/-- The block waits, or has nothing to do any more, or takes a transition of the `AWAIT`. -/
theorem AwaitStage.block (h : AwaitStage c m q late s) :
    ∃ t, internal s = .next t ∧ t.agenda = s.agenda ∧ t.besideAwait = s.besideAwait ∧ AwaitStage c m q late t ∧
      AwaitTurn s t := by
  cases h with
  | ended hr hs =>
    have hstalled : s.Stalled := by simp only [State.Stalled, hs.1]
    refine ⟨s, internal_of_stalled hstalled, rfl, rfl, .ended hr hs, rfl, id, .inl, fun _ n _ => ?_⟩
    simp [turnsLeft_of_idle n hs.1]
  | inProgress h =>
    by_cases hd : s.DataMissing → s.timer = 0
    · obtain ⟨t, hm⟩ := h.exists_move hd
      have hb := hm.move.besideAwait h.isRx
      refine ⟨t, internal_of_blockMove hm.move, hm.move.agenda_eq, hb, ?_, (congrArg State.timer hb :),
        fun _ => h.isRx, fun ht => .inr ⟨hm.timeout ht, hd (hm.timeout ht)⟩,
        fun _ n hn => Nat.le_sub_one_of_lt (hm.nearer n hn)⟩
      exact hm.goesOn.elim .inProgress .of_shows
    · obtain ⟨hmiss, ht⟩ := Classical.not_imp.mp hd
      exact ⟨s, internal_of_stalled (hmiss.stalled (Nat.pos_of_ne_zero ht)), rfl, rfl, .inProgress h, rfl, id, .inl,
        fun hd' => absurd hd' hd⟩

end

/-! ### The run -/

/-- The state without what the turns during an `AWAIT` write, those from outside among them (R111). -/
def State.besideAwaitRun (s : State) : State :=
  { s.besideAwait with timer := 0, rdOut := none, agenda := [] }

/-- During the run of an `AWAIT` that started in `start` and during which the bytes `arr` arrive in all, with the turns
`evs` to come: nothing beside it has changed, and of the bytes buffered and arrived none is out of order, and none is
lost where the queue is unbounded. -/
structure AwaitRun (start : State) (arr q late : List Byte) (evs : List Turn) (s : State) : Prop where
  beside : s.besideAwaitRun = start.besideAwaitRun
  stage : AwaitStage start.seq start.maxlen q late s
  buffered : start.rxq <+: q
  inOrder : (q ++ late ++ arrivals evs).Sublist (start.rxq ++ arr)
  noneLost : start.cfg.rxqCap = none → q ++ late ++ arrivals evs = start.rxq ++ arr

section
variable {start s : State} {arr q late : List Byte} {e : Turn} {evs later : List Turn}

/-- Right after the acceptance. -/
theorem awaitRun_start (s : State) {m : Half} (n : Nat) (hm : m.toNat ≤ s.cfg.bufCap.val) (evs : List Turn) :
    AwaitRun (s.awaitStarted m n) (arrivals evs) s.rxq [] evs (s.awaitStarted m n) where
  beside := rfl
  stage := .inProgress ⟨rfl, rfl, hm, rfl, rfl, fun h => absurd rfl h, fun h => absurd rfl h, trivial⟩
  buffered := List.prefix_rfl
  inOrder := by simp [State.awaitStarted]
  noneLost _ := by simp [State.awaitStarted]

theorem AwaitRun.withAgenda (h : AwaitRun start arr q late evs s) (later : List Turn) :
    AwaitRun start arr q late evs { s with agenda := later } :=
  { h with stage := h.stage.withAgenda later }

/-- What an `AWAIT` leaves alone (R111). -/
theorem AwaitRun.fields (h : AwaitRun start arr q late evs s) :
    s.cfg = start.cfg ∧ s.seq = start.seq ∧ s.txlog = start.txlog ∧ s.cmdPort = start.cmdPort :=
  ⟨(congrArg State.cfg h.beside :), (congrArg State.seq h.beside :), (congrArg State.txlog h.beside :),
    (congrArg State.cmdPort h.beside :)⟩

/-- The block's turn. -/
theorem AwaitRun.block (h : AwaitRun start arr q late (.block :: evs) s) (ha : s.agenda = .block :: later) :
    ∃ t, step s = .next t ∧ t.agenda = later ∧ AwaitRun start arr q late evs t ∧ AwaitTurn s t := by
  obtain ⟨t, hi, hta, hb, hst, hturn⟩ := (h.stage.withAgenda later).block
  refine ⟨t, (step_of_agenda_cons ha).trans hi, hta, ?_, { hturn with }⟩
  exact {
    beside := (congrArg (fun u : State => { u with timer := 0, rdOut := none, agenda := [] }) hb).trans h.beside
    stage := hst
    buffered := h.buffered
    inOrder := h.inOrder
    noneLost := h.noneLost }

/-- Every other calm turn: bytes may arrive, and the timer counts a tick. -/
theorem AwaitRun.outside (h : AwaitRun start arr q late (e :: evs) s) (ha : s.agenda = e :: later)
    (hc : e.calm = true) (hb : e ≠ .block) :
    ∃ t q' late' d, step s = .next t ∧ t.agenda = later ∧ AwaitRun start arr q' late' evs t ∧
      q ++ late <+: q' ++ late' ∧ t = State.outside { s with agenda := later } e d := by
  obtain ⟨d, ht⟩ := takeTurn_outside { s with agenda := later } hc hb
  obtain ⟨more, hq, hsub, hall⟩ := arriveAll_rxq_sublist { s with agenda := later } (arrivals [e])
  obtain ⟨q', late', hst, hpre, hcat⟩ := (h.stage.withAgenda later).outside hq d
  have harr := arrivals_cons e evs
  refine ⟨_, q', late', d, (step_of_agenda_cons ha).trans ht, rfl, ?_, hcat ▸ List.prefix_append _ _, rfl⟩
  exact {
    beside := h.beside
    stage := hst
    buffered := h.buffered.trans hpre
    inOrder := by
      refine List.Sublist.trans ?_ h.inOrder
      rw [hcat, harr, List.append_assoc (q ++ late)]
      exact (hsub.append_right _).append_left _
    noneLost := fun hcap => by
      rw [hcat, hall (h.fields.1 ▸ hcap), ← h.noneLost hcap, harr, List.append_assoc (q ++ late)] }

/-- Some calm turns later the run is where it is with these turns behind it. -/
theorem AwaitRun.after_turns (h : AwaitRun start arr q late evs s) (hcalm : ∀ e ∈ evs, e.calm = true)
    (ha : s.agenda = evs ++ later) :
    ∃ t q' late', steps evs.length s = .next t ∧ t.agenda = later ∧ AwaitRun start arr q' late' [] t := by
  have hturn (e : Turn) (evs : List Turn) (s : State) (later : List Turn) (hc : e.calm = true)
      (ha : s.agenda = e :: later) (h : ∃ q late, AwaitRun start arr q late (e :: evs) s) :
      ∃ t, step s = .next t ∧ t.agenda = later ∧ ∃ q late, AwaitRun start arr q late evs t := by
    obtain ⟨q, late, h⟩ := h
    by_cases hb : e = .block
    · subst hb
      obtain ⟨t, ht, hta, hrun, -⟩ := h.block ha
      exact ⟨t, ht, hta, q, late, hrun⟩
    · obtain ⟨t, q', late', d, ht, hta, hrun, -⟩ := h.outside ha hc hb
      exact ⟨t, ht, hta, q', late', hrun⟩
  obtain ⟨t, ht, hta, q', late', hrun⟩ := steps_turns
    (P := fun evs s => ∃ q late, AwaitRun start arr q late evs s) hturn hcalm ha ⟨q, late, h⟩
  exact ⟨t, q', late', ht, hta, hrun⟩

/-- What an ended run shows. -/
theorem AwaitRun.shows_of_idle (h : AwaitRun start arr q late evs s) (hp : s.phase = .idle) :
    ∃ code body rest, awaitResult start.seq start.maxlen q = (code, body, rest) ∧
      s.shows (code, body, rest ++ late) := by
  cases h.stage with
  | inProgress ha => exact absurd ha.isRx (by rw [hp]; decide)
  | ended hr hs => exact ⟨_, _, _, hr, hs⟩

/-- Of all outcomes only `Timeout` can depend on bytes that came too late (R113). -/
theorem AwaitRun.shows_of_not_timeout (h : AwaitRun start arr q late evs s) (hp : s.phase = .idle)
    (hnt : s.status ≠ .timeout) : s.shows (awaitResult start.seq start.maxlen (q ++ late)) := by
  obtain ⟨code, body, rest, hr, hs⟩ := h.shows_of_idle hp
  have hcode : code ≠ .timeout := fun ht => hnt (hs.2.1.trans ht)
  rw [((awaitResult_eq_iff.mp hr).append hcode late).result_eq]
  exact hs

end

/-- The acceptance and what follows it, as the statements about `AWAIT` in their own words put it. -/
theorem awaitRun_of_exec {s t₀ t : State} {m : Half} {n : Nat} {evs : List Turn} (hp : s.phase = .idle)
    (hm : m.toNat ≤ s.cfg.bufCap.val) (hx : exec (.await m n) s = .next t₀) (hcalm : ∀ e ∈ evs, e.calm = true)
    (hst : steps evs.length { t₀ with agenda := evs } = .next t) :
    ∃ q late, AwaitRun (s.awaitStarted m n) (arrivals evs) q late [] t := by
  rw [exec_await_of_idle m n hp, acceptAwait_of_le n hm] at hx
  cases hx
  obtain ⟨t', q, late, ht', -, hrun⟩ :=
    ((awaitRun_start s n hm evs).withAgenda evs).after_turns hcalm (List.append_nil evs).symm
  rw [hst] at ht'
  cases ht'
  exact ⟨q, late, hrun⟩

/-- Settles O25: where the function `Await` says `OK`, a good frame stands at the front of the bytes (R114 (a)). -/
theorem awaitAcceptsOnlyFrames : Obligations.AwaitAcceptsOnlyFrames := by
  intro s t₀ t m n evs hp hm hx hcalm hst htp hok
  obtain ⟨q, late, hrun⟩ := awaitRun_of_exec hp hm hx hcalm hst
  obtain ⟨code, body, rest, hr, -, hcode, hlen, hbody, hrxq⟩ := hrun.shows_of_idle htp
  obtain rfl : code = .ok := hcode.symm.trans hok
  obtain ⟨f, rfl, hwf, hseq, rfl, hl⟩ := (awaitResult_eq_iff.mp hr).frame_of_ok
  have hq : f ++ t.rxq = f ++ rest ++ late ++ arrivals [] := by
    rw [hrxq, arrivals, List.append_nil, List.append_assoc]
  exact ⟨f, hq ▸ hrun.inOrder, fun hcap => hq ▸ (hrun.noneLost hcap).symm, hwf, hseq, hlen, hlen.trans_le hl,
    fun i hi => hbody i (hlen ▸ hi)⟩

/-- Settles O26: the bytes the run has seen are all the bytes, and no outcome but `Timeout` changes with late ones. -/
theorem awaitIsAFunctionOfTheBytes : Obligations.AwaitIsAFunctionOfTheBytes := by
  intro s t₀ t m n evs hp hcap hm hx hcalm hst htp hnt
  obtain ⟨q, late, hrun⟩ := awaitRun_of_exec hp hm hx hcalm hst
  have hall : q ++ late = s.rxq ++ arrivals evs := (List.append_nil _).symm.trans (hrun.noneLost hcap)
  obtain ⟨-, hseq, hlog, -⟩ := hrun.fields
  exact ⟨hall ▸ hrun.shows_of_not_timeout htp hnt, hseq, hlog⟩

end Sys2Proof.Machine
end

section
/-! An `AWAIT` ends once its timer can run out (R163), and on a quiet line it ends as the function `Await` of the queue
says (R113). -/

namespace Sys2Proof.Machine

theorem arrivals_of_quiet {evs : List Turn} (h : ∀ e ∈ evs, e.quiet = true) : arrivals evs = [] := by
  induction evs with
  | nil => rfl
  | cons e evs ih =>
    have he : arrivals [e] = [] := by
      have := h e List.mem_cons_self
      cases e <;> simp_all [Turn.quiet, arrivals]
    rw [arrivals_cons, he, ih fun x hx => h x (List.mem_cons_of_mem _ hx), List.append_nil]

theorem arrivals_replicate_block (n : Nat) : arrivals (List.replicate n .block) = [] :=
  arrivals_of_quiet fun e he => by rw [List.eq_of_mem_replicate he]; rfl

section
variable {c : Byte} {m : Half} {start s : State} {arr q late : List Byte} {e : Turn} {evs later : List Turn}

/-! ### The end of a run -/

theorem consumed_of_idle (hp : s.phase = .idle) : s.consumed = [] := by
  simp only [State.consumed, hp]

theorem AwaitStage.consumed_length_le (h : AwaitStage c m q late s) : s.consumed.length ≤ q.length := by
  cases h with
  | inProgress h => rw [← h.bytes, List.length_append]; exact Nat.le_add_right _ _
  | ended _ hs => rw [consumed_of_idle hs.1]; exact Nat.zero_le _

/-- With no turn left to take the `AWAIT` has ended. -/
theorem AwaitStage.idle_of_turnsLeft {n : Nat} (h : AwaitStage c m q late s) (hn : s.consumed.length < n)
    (h0 : s.turnsLeft n = 0) : s.phase = .idle := by
  cases h with
  | inProgress h =>
    rw [State.turnsLeft, if_pos h.isRx] at h0
    omega
  | ended _ hs => exact hs.1

/-- A run whose timer the ticks to come bring to 0. -/
def Expiring (start : State) (arr : List Byte) (evs : List Turn) (s : State) : Prop :=
  ∃ q late, AwaitRun start arr q late evs s ∧ (s.phase.isRx = true → s.timer ≤ evs.count .tick)

theorem Expiring.step (hc : e.calm = true) (ha : s.agenda = e :: later) (h : Expiring start arr (e :: evs) s) :
    ∃ t, step s = .next t ∧ t.agenda = later ∧ Expiring start arr evs t := by
  obtain ⟨q, late, hrun, htime⟩ := h
  by_cases hb : e = .block
  · subst hb
    obtain ⟨t, ht, hta, hrun', hturn⟩ := hrun.block ha
    exact ⟨t, ht, hta, q, late, hrun', fun hr => hturn.timer ▸ htime (hturn.isRx hr)⟩
  · obtain ⟨t, q', late', d, ht, hta, hrun', -, rfl⟩ := hrun.outside ha hc hb
    refine ⟨_, ht, hta, q', late', hrun', fun (hr : s.phase.isRx = true) => ?_⟩
    have hle := htime hr
    rw [← List.singleton_append, List.count_append] at hle
    simp only [State.outside, hr, if_true]
    omega

/-- A run whose timer is at 0, with enough turns of the block to come. -/
def Finishing (start : State) (arr : List Byte) (evs : List Turn) (s : State) : Prop :=
  ∃ q late, AwaitRun start arr q late evs s ∧ (s.phase.isRx = true → s.timer = 0) ∧
    s.turnsLeft (q.length + 1) ≤ evs.count .block

theorem Finishing.step (he : e = .block) (ha : s.agenda = e :: later) (h : Finishing start arr (e :: evs) s) :
    ∃ t, step s = .next t ∧ t.agenda = later ∧ Finishing start arr evs t := by
  subst he
  obtain ⟨q, late, hrun, htime, hleft⟩ := h
  obtain ⟨t, ht, hta, hrun', hturn⟩ := hrun.block ha
  have hnear := hturn.nearer (fun hd => htime hd.isRx) (q.length + 1) (Nat.lt_succ_of_le hrun.stage.consumed_length_le)
  rw [List.count_cons_self] at hleft
  exact ⟨t, ht, hta, q, late, hrun', fun hr => hturn.timer ▸ htime (hturn.isRx hr), by omega⟩

/-- After as many ticks as the timer counts, the bytes there are and three more turns of the block end an `AWAIT`. -/
theorem AwaitRun.ends {n : Nat} (h : AwaitRun start arr q late evs s) (hcalm : ∀ e ∈ evs, e.calm = true)
    (ha : s.agenda = evs ++ List.replicate n .block) (ht : s.timer ≤ evs.count .tick)
    (hn : start.rxq.length + arr.length + 3 ≤ n) :
    ∃ t q' late', steps s.agenda.length s = .next t ∧ AwaitRun start arr q' late' [] t ∧ t.phase = .idle := by
  obtain ⟨u, hu, hua, q₁, late₁, hrun₁, htime⟩ :=
    steps_turns (fun _ _ _ _ => Expiring.step) hcalm ha ⟨q, late, h, fun _ => ht⟩
  have hlen := hrun₁.inOrder.length_le
  simp only [List.length_append] at hlen
  have hfin : Finishing start arr (List.replicate n .block) u := by
    refine ⟨q₁, late₁, { hrun₁ with inOrder := ?_, noneLost := ?_ }, fun hr => Nat.le_zero.mp (htime hr), ?_⟩
    · rw [arrivals_replicate_block]; exact hrun₁.inOrder
    · rw [arrivals_replicate_block]; exact hrun₁.noneLost
    · have := turnsLeft_le (q₁.length + 1) u
      rw [List.count_replicate_self]
      omega
  obtain ⟨t, hst, -, q', late', hrun, -, hleft⟩ :=
    steps_turns (fun _ _ _ _ => Finishing.step) (fun e he => List.eq_of_mem_replicate he)
      (hua.trans (List.append_nil _).symm) hfin
  refine ⟨t, q', late', ?_, hrun, ?_⟩
  · rw [ha, List.length_append, steps_add _ _ hu, hst]
  · exact hrun.stage.idle_of_turnsLeft (Nat.lt_succ_of_le hrun.stage.consumed_length_le) (Nat.le_zero.mp hleft)

/-- Where nothing arrives, an `AWAIT` works on the bytes that were buffered. -/
theorem AwaitRun.eq_buffered (h : AwaitRun start [] q late evs s) : q = start.rxq ∧ late = [] := by
  have hlen := h.inOrder.length_le
  have hpre := h.buffered.length_le
  simp only [List.length_append, List.length_nil] at hlen
  exact ⟨(h.buffered.eq_of_length (by omega)).symm, List.eq_nil_of_length_eq_zero (by omega)⟩

end

/-! ### The quiet line (R113) -/

theorem Turn.calm_of_quiet {e : Turn} (h : e.quiet = true) : e.calm = true := by
  cases e <;> simp_all [Turn.quiet, Turn.calm]

/-- The turn of the command port starts the `AWAIT` offered there (R72, R101). -/
theorem commandTurn_await {s : State} {m : Half} {n : Nat} {later : List (List CmdWord)} (hp : s.phase = .idle)
    (hm : m.toNat ≤ s.cfg.bufCap.val) (hc : s.cmdPort = [awaitWord m n] :: later) :
    commandTurn s = .next (State.awaitStarted { s with cmdPort := later } m n) := by
  have hd : decode (.command [awaitWord m n]) = .ok (.await m n) := rfl
  rw [commandTurn_of_decode hc hd, exec_await_of_idle (s := { s with cmdPort := later }) m n hp,
    acceptAwait_of_le (s := { s with cmdPort := later }) n hm]

/-- The step that accepts the `AWAIT` offered. -/
theorem step_await {s : State} {m : Half} {n : Nat} {later : List (List CmdWord)} {evs : List Turn}
    (hp : s.phase = .idle) (hm : m.toNat ≤ s.cfg.bufCap.val) (hc : s.cmdPort = [awaitWord m n] :: later)
    (ha : s.agenda = .command :: evs) :
    step s = .next (State.awaitStarted { s with agenda := evs, cmdPort := later } m n) := by
  rw [step_of_agenda_cons ha]
  exact commandTurn_await (s := { s with agenda := evs }) hp hm hc

/-- Settles O24: the timer runs out during the turns, the block's turns at the end bring the `AWAIT` to its end, and no
byte but those buffered has played a part. -/
theorem awaitOnQuietLine : Obligations.AwaitOnQuietLine := by
  intro s m n evs h
  obtain ⟨later, hport⟩ : ∃ later, s.cmdPort = [awaitWord m n] :: later := by
    have := h.offered
    cases hc : s.cmdPort <;> simp_all
  have hfirst := step_await h.idle h.bound hport h.agenda
  have hstart := awaitRun_start
    { s with agenda := evs ++ List.replicate (s.rxq.length + 8) .block, cmdPort := later } n h.bound evs
  rw [arrivals_of_quiet h.quiet] at hstart
  obtain ⟨t, q, late, hst, hrun, hidle⟩ := hstart.ends (fun e he => Turn.calm_of_quiet (h.quiet e he)) rfl
    (by simp [State.awaitStarted, Nat.mod_eq_of_lt h.width, h.ticks]) (by simp [State.awaitStarted])
  obtain ⟨code, body, rest, hr, hs⟩ := hrun.shows_of_idle hidle
  obtain ⟨rfl, rfl⟩ := hrun.eq_buffered
  obtain ⟨-, hseq, hlog, hcmd⟩ := hrun.fields
  rw [List.append_nil, ← hr] at hs
  refine ⟨t, ?_, hs, hseq, hlog, by rw [hcmd, hport]; rfl⟩
  rw [h.agenda, List.length_cons, steps_succ _ hfirst]
  exact hst

end Sys2Proof.Machine
end

section
/-! A good frame is accepted (R114 (b)), however the timer runs once its bytes are there (R116, R162), and so is one's
own frame fed back (R114 (c)). -/

namespace Sys2Proof.Machine

section
variable {c x : Byte} {m : Half} {start s : State} {arr q late rest body : List Byte} {e : Turn} {evs later : List Turn}

/-! ### A frame that is there whole -/

/-- A header latched from the front of a frame is the frame's. -/
theorem length_of_frame_latched {h : Header} (hl : body.length ≤ 65535) (hq : h.bytes <+: q)
    (hf : encodeV2 x body [] <+: q) : h.length.toNat = body.length := by
  have hpre : (frameHeader x (.ofNat 16 body.length)).bytes <+: q := by
    refine List.IsPrefix.trans ?_ hf
    rw [bytes_frameHeader, encodeV2_eq, List.append_nil, framePre, List.append_assoc]
    exact List.prefix_append _ _
  have hbytes : h.bytes <+: (frameHeader x (.ofNat 16 body.length)).bytes :=
    List.prefix_of_prefix_length_le hq hpre (Nat.le_refl 5)
  rw [Header.eq_of_bytes (hbytes.eq_of_length rfl), length_frameHeader, ofNat_toNat_of_le hl]

/-- The `AWAIT` has not yet consumed the last byte of a frame that its bytes begin with. -/
theorem State.Awaiting.consumed_length_lt (h : s.Awaiting c m q) (hl : body.length ≤ 65535)
    (hf : encodeV2 x body [] <+: q) : s.consumed.length < 6 + body.length := by
  have hcat := h.bytes
  cases hp : s.phase
  case rxWait => simp [consumed_rxWait hp]
  case rxHdr => rw [consumed_rxHdr hp, List.length_take, Header.bytes_length]; omega
  case rxChk => rw [consumed_rxChk hp, Header.bytes_length]; omega
  case rxBody =>
    obtain ⟨-, hsize, hi⟩ := (awaitPosition_rxBody hp).mp h.position
    rw [consumed_rxBody hp] at hcat ⊢
    have := length_of_frame_latched hl (hcat ▸ (List.prefix_append _ _).trans (List.prefix_append _ _)) hf
    simp only [List.length_append, Header.bytes_length, List.length_map, List.length_range, hsize] at hi ⊢
    omega
  case rxCks =>
    obtain ⟨-, hsize⟩ := (awaitPosition_rxCks hp).mp h.position
    rw [consumed_rxCks hp] at hcat ⊢
    have := length_of_frame_latched hl (hcat ▸ (List.prefix_append _ _).trans (List.prefix_append _ _)) hf
    simp only [List.length_append, Header.bytes_length, List.length_map, List.length_range, hsize]
    omega
  all_goals exact absurd h.isRx (by rw [hp]; decide)

/-- With a whole frame in front an `AWAIT` has always the data it waits for. -/
theorem State.Awaiting.not_dataMissing (h : s.Awaiting c m q) (hl : body.length ≤ 65535)
    (hf : encodeV2 x body [] <+: q) : ¬ s.DataMissing := by
  intro hd
  have hlt := h.consumed_length_lt hl hf
  have hlen := hf.length_le
  rw [encodeV2_length, ← h.bytes, List.length_append, List.length_nil] at hlen
  cases hp : s.phase <;> simp only [State.DataMissing, hp] at hd
  case rxWait => rw [consumed_rxWait hp, List.length_nil] at hlen; omega
  case rxBody | rxCks => rw [hd, List.length_nil] at hlen; omega

theorem AwaitStage.frame_ahead (h : AwaitStage c m q late s) (hl : body.length ≤ 65535)
    (hf : encodeV2 x body [] <+: q ++ late) : s.consumed.length < 6 + body.length ∧ ¬ s.DataMissing := by
  cases h with
  | inProgress h =>
    rw [List.append_nil] at hf
    exact ⟨h.consumed_length_lt hl hf, h.not_dataMissing hl hf⟩
  | ended _ hs =>
    refine ⟨by rw [consumed_of_idle hs.1, List.length_nil]; omega, fun hd => ?_⟩
    exact absurd hd.isRx (by rw [hs.1]; decide)

/-- A run whose bytes begin with a whole frame, with enough turns of the block to come. -/
def FrameIn (start : State) (arr f : List Byte) (evs : List Turn) (s : State) : Prop :=
  ∃ q late, AwaitRun start arr q late evs s ∧ s.status ≠ .timeout ∧ f <+: q ++ late ∧
    s.turnsLeft f.length ≤ evs.count .block

theorem FrameIn.step (hl : body.length ≤ 65535) (hc : e.calm = true) (ha : s.agenda = e :: later)
    (h : FrameIn start arr (encodeV2 x body []) (e :: evs) s) :
    ∃ t, step s = .next t ∧ t.agenda = later ∧ FrameIn start arr (encodeV2 x body []) evs t := by
  obtain ⟨q, late, hrun, hnt, hf, hleft⟩ := h
  obtain ⟨hlt, hd⟩ := hrun.stage.frame_ahead hl hf
  by_cases hb : e = .block
  · subst hb
    obtain ⟨t, ht, hta, hrun', hturn⟩ := hrun.block ha
    have hnear := hturn.nearer (fun hd' => absurd hd' hd) (encodeV2 x body []).length (by simpa using hlt)
    rw [List.count_cons_self] at hleft
    refine ⟨t, ht, hta, q, late, hrun', fun hst => ?_, hf, by omega⟩
    exact (hturn.timeout hst).elim hnt fun hm => hd hm.1
  · obtain ⟨t, q', late', d, ht, hta, hrun', hpre, rfl⟩ := hrun.outside ha hc hb
    rw [List.count_cons_of_ne hb] at hleft
    exact ⟨_, ht, hta, q', late', hrun', hnt, hf.trans hpre, hleft⟩

/-- Once the whole frame is there the `AWAIT` takes all its bytes, whatever the timer does (R116, R162). -/
theorem AwaitRun.takes_frame (h : AwaitRun start arr q late evs s) (hcalm : ∀ e ∈ evs, e.calm = true)
    (ha : s.agenda = evs) (hl : body.length ≤ 65535) (hnt : s.status ≠ .timeout)
    (hf : encodeV2 x body [] <+: q ++ late) (hn : 8 + body.length ≤ evs.count .block) :
    ∃ t q' late', steps evs.length s = .next t ∧ AwaitRun start arr q' late' [] t ∧ t.phase = .idle ∧
      t.status ≠ .timeout := by
  have hleft := turnsLeft_le (encodeV2 x body []).length s
  have hlen : (encodeV2 x body []).length = 6 + body.length := by simp
  obtain ⟨t, hst, -, q', late', hrun, hnt', hf', h0⟩ := steps_turns (fun _ _ _ _ => FrameIn.step hl) hcalm
    (ha.trans (List.append_nil _).symm) ⟨q, late, h, hnt, hf, by omega⟩
  have hlt := (hrun.stage.frame_ahead hl hf').1
  exact ⟨t, q', late', hst, hrun, hrun.stage.idle_of_turnsLeft (hlen ▸ hlt) (Nat.le_zero.mp h0), hnt'⟩

/-! ### A frame that arrives in time -/

/-- A run whose timer the ticks to come do not bring to 0. -/
def InTime (start : State) (arr : List Byte) (evs : List Turn) (s : State) : Prop :=
  ∃ q late, AwaitRun start arr q late evs s ∧ s.status ≠ .timeout ∧ evs.count .tick < s.timer

theorem InTime.step (hc : e.calm = true) (ha : s.agenda = e :: later) (h : InTime start arr (e :: evs) s) :
    ∃ t, step s = .next t ∧ t.agenda = later ∧ InTime start arr evs t := by
  obtain ⟨q, late, hrun, hnt, htime⟩ := h
  rw [← List.singleton_append, List.count_append] at htime
  by_cases hb : e = .block
  · subst hb
    obtain ⟨t, ht, hta, hrun', hturn⟩ := hrun.block ha
    refine ⟨t, ht, hta, q, late, hrun', fun hst => ?_, by rw [hturn.timer]; omega⟩
    exact (hturn.timeout hst).elim hnt fun hm => by omega
  · obtain ⟨t, q', late', d, ht, hta, hrun', -, rfl⟩ := hrun.outside ha hc hb
    refine ⟨_, ht, hta, q', late', hrun', hnt, ?_⟩
    simp only [State.outside]
    split <;> omega

/-- The run goes on over further turns. -/
theorem AwaitRun.extend (h : AwaitRun start arr q late [] s) (evs : List Turn) :
    AwaitRun start (arr ++ arrivals evs) q late evs s where
  beside := h.beside
  stage := h.stage
  buffered := h.buffered
  inOrder := by
    have := h.inOrder.append_right (arrivals evs)
    rwa [arrivals, List.append_nil, List.append_assoc start.rxq] at this
  noneLost hcap := by
    have := h.noneLost hcap
    rw [arrivals, List.append_nil] at this
    rw [this, List.append_assoc]

end

theorem arrivals_append (evs evs' : List Turn) : arrivals (evs ++ evs') = arrivals evs ++ arrivals evs' := by
  induction evs with
  | nil => rfl
  | cons e evs ih => rw [List.cons_append, arrivals_cons, arrivals_cons e evs, ih, List.append_assoc]

/-- A frame that is buffered whole, or comes in time, is taken, and all the bytes decide the outcome (R114 (b)). -/
theorem awaitStarted_takes_frame {s : State} {x : Byte} {m : Half} {n : Nat} {body rest : List Byte}
    {before after : List Turn} (hm : m.toNat ≤ s.cfg.bufCap.val) (hn : n < 2 ^ s.cfg.timerW)
    (hcap : s.cfg.rxqCap = none) (hcalm : ∀ e ∈ before, e.calm = true) (hcalm' : ∀ e ∈ after, e.calm = true)
    (ha : s.agenda = before ++ after) (hl : body.length ≤ 65535)
    (hf : s.rxq ++ arrivals before = encodeV2 x body [] ++ rest) (hturns : 8 + body.length ≤ after.count .block)
    (hwhen : 6 + body.length ≤ s.rxq.length ∨ before.count .tick < n) :
    ∃ t, steps s.agenda.length (s.awaitStarted m n) = .next t ∧
      t.shows (awaitResult s.seq m (s.rxq ++ arrivals (before ++ after))) := by
  have hshows {q late : List Byte} {t : State} (hidle : t.phase = .idle) (hnt : t.status ≠ .timeout)
      (h : AwaitRun (s.awaitStarted m n) (arrivals (before ++ after)) q late [] t) :
      t.shows (awaitResult s.seq m (s.rxq ++ arrivals (before ++ after))) := by
    have hall := h.noneLost hcap
    rw [arrivals, List.append_nil] at hall
    exact hall ▸ h.shows_of_not_timeout hidle hnt
  rcases hwhen with hbuf | htime
  · have hahead : encodeV2 x body [] <+: s.rxq ++ arrivals before := hf.symm ▸ List.prefix_append _ _
    have hpre : encodeV2 x body [] <+: s.rxq ++ [] := by
      rw [List.append_nil]
      exact List.prefix_of_prefix_length_le hahead (List.prefix_append _ _) (by simpa using hbuf)
    obtain ⟨t, q, late, hst, hrun, hidle, hnt⟩ := (awaitRun_start s n hm (before ++ after)).takes_frame
      (fun e he => (List.mem_append.mp he).elim (hcalm e) (hcalm' e)) ha hl nofun hpre
      (by rw [List.count_append]; omega)
    exact ⟨t, ha ▸ hst, hshows hidle hnt hrun⟩
  · have hstart : InTime (s.awaitStarted m n) (arrivals before) before (s.awaitStarted m n) :=
      ⟨_, _, awaitRun_start s n hm before, nofun, htime.trans_eq (Nat.mod_eq_of_lt hn).symm⟩
    obtain ⟨u, hu, hua, q, late, hrun, hnt, -⟩ :=
      steps_turns (s := s.awaitStarted m n) (fun _ _ _ _ => InTime.step) hcalm ha hstart
    have hall : q ++ late = encodeV2 x body [] ++ rest :=
      (List.append_nil _).symm.trans ((hrun.noneLost hcap).trans hf)
    obtain ⟨t, q', late', hst, hrun', hidle, hnt'⟩ :=
      (hrun.extend after).takes_frame hcalm' hua hl hnt (hall.symm ▸ List.prefix_append _ rest) hturns
    rw [← arrivals_append] at hrun'
    exact ⟨t, by rw [ha, List.length_append, steps_add _ _ hu, hst], hshows hidle hnt' hrun'⟩

/-- Settles O27: in time or whole from the start, the frame is there before the timer can end the `AWAIT`, which then
takes it; the outcome is that of the function `Await` on a string that begins with the frame. -/
theorem awaitAcceptsEveryFrame : Obligations.AwaitAcceptsEveryFrame := by
  intro s x body rest m n later before after hp hcap hport hm hn hcalm hcalm' ha hx hl hframe hwhen
  have hblocks : ∀ e ∈ after ++ List.replicate (8 + body.length) .block, e.calm = true := fun e he => by
    rcases List.mem_append.mp he with he | he
    · exact hcalm' e he
    · rw [List.eq_of_mem_replicate he]; rfl
  rw [List.append_assoc] at ha
  obtain ⟨t, hst, hshows⟩ := awaitStarted_takes_frame
    (s := { s with agenda := before ++ (after ++ List.replicate (8 + body.length) .block), cmdPort := later })
    hm hn hcap hcalm hblocks rfl (by omega) hframe (by simp) hwhen
  refine ⟨t, by rw [ha, List.length_cons, steps_succ _ (step_await hp hm hport ha)]; exact hst, ?_⟩
  have hall : s.rxq ++ arrivals (before ++ (after ++ List.replicate (8 + body.length) .block)) =
      encodeV2 x body [] ++ (rest ++ arrivals after) := by
    rw [arrivals_append, arrivals_append, arrivals_replicate_block, List.append_nil, ← List.append_assoc, hframe,
      List.append_assoc]
  have hres := (awaitOutcome_encodeV2 (rest ++ arrivals after) hx hl).result_eq
  exact hres ▸ hall ▸ hshows

/-! ### The frame of a `SEND` fed back (R114 (c)) -/

/-- The block's own turns alone bring a `SEND` to its end (R86). -/
theorem sending_steps_block {s : State} {later : List Turn} (h : s.Sending)
    (ha : s.agenda = List.replicate s.unsent.length .block ++ later) :
    ∃ t, steps s.unsent.length s = .next t ∧ t.agenda = later ∧ t.phase = .idle ∧ t.rxq = s.rxq ∧
      t.besideSend = s.besideSend ∧ t.txlog = s.txlog ++ s.unsent := by
  generalize hn : s.unsent = bs at ha ⊢
  induction bs generalizing s with
  | nil => exact ⟨s, rfl, ha, (completed_of_unsent_nil h hn).1, rfl, rfl, (List.append_nil _).symm⟩
  | cons b bs ih =>
    rw [List.length_cons, List.replicate_succ, List.cons_append] at ha
    have hs : State.Sending { s with agenda := List.replicate bs.length .block ++ later } :=
      ⟨h.ready, h.payLength, h.position⟩
    obtain ⟨u, hu⟩ := exists_emitsNext hs fun (hnil : s.unsent = []) => by simp [hnil] at hn
    obtain ⟨b', hlog, (hrest : s.unsent = b' :: u.unsent)⟩ := hu.emits
    obtain ⟨rfl, hrest⟩ := List.cons.inj (hrest.symm.trans hn)
    obtain ⟨t, hst, hta, hidle, hq, hbeside, hlog'⟩ := ih hu.sending hrest hu.move.agenda_eq
    have hstep : step s = .next u := (step_of_agenda_cons ha).trans (internal_of_blockMove hu.move)
    exact ⟨t, by rw [List.length_cons, steps_succ _ hstep, hst], hta, hidle, hq.trans hu.rxq, hbeside.trans hu.beside,
      by rw [hlog', hlog, List.append_assoc]; rfl⟩

/-- The turn of the command port starts the `SEND` of an `XACT` and leaves its `AWAIT` at the port (R76). -/
theorem commandTurn_xact {s : State} {cp data : List Byte} {m : Half} {n : Nat} (hp : s.phase = .idle)
    (hn : cp.length + data.length ≤ 65535)
    (hc : s.cmdPort = [[sendWord (BitVec.ofNat 16 cp.length) (BitVec.ofNat 16 data.length) (cp ++ data),
      awaitWord m n]]) :
    commandTurn s = .next (State.sendStarted { s with cmdPort := [[awaitWord m n]] } (cp ++ data)) := by
  have hcp : (BitVec.ofNat 16 cp.length).toNat = cp.length := ofNat_toNat_of_le (by omega)
  have hdata : (BitVec.ofNat 16 data.length).toNat = data.length := ofNat_toNat_of_le (by omega)
  rw [commandTurn_of_decode
    (i := .xact (BitVec.ofNat 16 cp.length) (BitVec.ofNat 16 data.length) (cp ++ data) m n) hc rfl]
  exact (xactIsSendThenAwait { s with cmdPort := [] } _ _ m (cp ++ data) n hp).2 (by omega)
    (by rw [hcp, hdata, List.length_append])

/-- A good frame that has arrived is accepted by an `AWAIT` with any timeout, within any capacity (R114, R116). -/
theorem await_accepts_arrived_frame {s : State} {x : Byte} {body : List Byte} {m : Half} {n : Nat}
    (hp : s.phase = .idle) (hq : s.rxq = []) (hroom : withinCap s.cfg.rxqCap (6 + body.length))
    (hm : m.toNat ≤ s.cfg.bufCap.val) (hport : s.cmdPort = [[awaitWord m n]]) (hx : x + 1 = s.seq)
    (hl : body.length ≤ m.toNat)
    (ha : s.agenda = .wire (encodeV2 x body []) :: .command :: List.replicate (8 + body.length) .block) :
    ∃ t, steps s.agenda.length s = .next t ∧ t.shows (.ok, body, []) ∧ t.txlog = s.txlog := by
  have hwire : step s = .next { s with
      rxq := encodeV2 x body [], agenda := .command :: List.replicate (8 + body.length) .block } := by
    rw [step_of_agenda_cons ha, takeTurn, wireTurn_eq, arriveAll_of_room (by simpa [hq] using hroom)]
    simp [hq]
  have hawait := step_await (s := { s with
    rxq := encodeV2 x body [], agenda := .command :: List.replicate (8 + body.length) .block }) hp hm hport rfl
  have hstart := awaitRun_start { s with
    rxq := encodeV2 x body [], agenda := List.replicate (8 + body.length) .block, cmdPort := [] } n hm
    (List.replicate (8 + body.length) .block)
  rw [arrivals_replicate_block] at hstart
  obtain ⟨t, q, late, hst, hrun, hidle, hnt⟩ := hstart.takes_frame (x := x) (body := body)
    (fun e he => by rw [List.eq_of_mem_replicate he]; rfl) rfl (by omega) nofun
    (List.prefix_append _ _) (by simp)
  obtain ⟨rfl, rfl⟩ := hrun.eq_buffered
  have hshows := hrun.shows_of_not_timeout hidle hnt
  have hres : awaitResult s.seq m (encodeV2 x body [] ++ []) = (.ok, body, []) :=
    (awaitOutcome_encodeV2 [] hx hl).result_eq
  refine ⟨t, ?_, hres ▸ hshows, hrun.fields.2.2.1⟩
  rw [ha, List.length_cons, steps_succ _ hwire, List.length_cons, steps_succ _ hawait]
  exact hst

/-- The first part of an `XACT`: its `SEND` runs to its end, with the `AWAIT` still at the command port (R76, R86). -/
theorem xact_sends {s : State} {cp data : List Byte} {m : Half} {n : Nat} {later : List Turn} (hp : s.phase = .idle)
    (hr : s.txReady = true) (hn : cp.length + data.length ≤ 65535)
    (hc : s.cmdPort = [[sendWord (BitVec.ofNat 16 cp.length) (BitVec.ofNat 16 data.length) (cp ++ data),
      awaitWord m n]])
    (ha : s.agenda = .command :: (List.replicate (6 + cp.length + data.length) .block ++ later)) :
    ∃ t, steps (6 + cp.length + data.length + 1) s = .next t ∧ t.agenda = later ∧ t.phase = .idle ∧ t.rxq = s.rxq ∧
      t.cfg = s.cfg ∧ t.seq = s.seq + 1 ∧ t.cmdPort = [[awaitWord m n]] ∧
      t.txlog = s.txlog ++ encodeV2 s.seq cp data := by
  have hfirst := (step_of_agenda_cons ha).trans (commandTurn_xact (s := { s with agenda := _ }) hp hn hc)
  generalize hu : State.sendStarted _ (cp ++ data) = u at hfirst
  have hunsent : u.unsent = encodeV2 s.seq cp data := hu ▸ unsent_sendStarted _ cp data
  have hsending : u.Sending := hu ▸ sending_sendStarted hr (List.length_append.trans_le hn)
  have hlen : u.unsent.length = 6 + cp.length + data.length := by rw [hunsent, encodeV2_length]
  obtain ⟨t, hst, hta, hidle, hq, hbeside, hlog⟩ := sending_steps_block hsending (later := later)
    (by rw [hlen, ← hu]; rfl)
  obtain ⟨hcfg, hseq, -, -, hport⟩ := fields_of_besideSend_eq hbeside
  rw [hlen] at hst
  rw [hunsent] at hlog
  subst hu
  exact ⟨t, (steps_succ _ hfirst).trans hst, hta, hidle, hq, hcfg, hseq, hport, hlog⟩

/-- Settles O28: the `SEND` runs to its end, its frame arrives whole, and the `AWAIT` offered next takes it. -/
theorem loopbackAccepted : Obligations.LoopbackAccepted := by
  intro s cp data m n hp hr hroom hq hl hm hport ha
  rw [List.append_assoc] at ha
  obtain ⟨u, hu, hua, hidle, hrxq, hcfg, hseq, hcmd, hlog⟩ := xact_sends hp hr (by omega) hport ha
  have hframe : encodeV2 s.seq cp data = encodeV2 s.seq (cp ++ data) [] := by
    rw [encodeV2_eq, encodeV2_eq, List.append_nil]
  have hlen : (cp ++ data).length = cp.length + data.length := List.length_append
  rw [hframe, Nat.add_assoc 8, ← hlen] at hua
  obtain ⟨t, hst, hshows, htlog⟩ := await_accepts_arrived_frame (x := s.seq) (body := cp ++ data) hidle (hrxq.trans hq)
    (by rwa [hcfg, hlen, ← Nat.add_assoc]) (hcfg ▸ hm) hcmd hseq.symm (hlen.trans_le hl) hua
  refine ⟨t, ?_, hshows, htlog.trans hlog⟩
  have hcount : s.agenda.length = 6 + cp.length + data.length + 1 + u.agenda.length := by
    simp [ha, hua]
    omega
  rw [hcount, steps_add _ _ hu, hst]

end Sys2Proof.Machine
end

section
/-! What an `AWAIT` makes of a frame with one changed byte (R115): a header byte latched wrong, or a header as sent and
a rest whose exclusive-or no longer balances. -/

namespace Sys2Proof

/-- Another value in one place changes the exclusive-or (R66). -/
theorem xorAll_set_ne {bs : List Byte} {i : Nat} {b : Byte} (hi : i < bs.length) (hb : b ≠ bs.getD i 0) :
    xorAll (bs.set i b) ≠ xorAll bs := by
  induction bs generalizing i with
  | nil => cases hi
  | cons a bs ih =>
    cases i with
    | zero => exact fun h => hb ((BitVec.xor_left_inj _).mp h)
    | succ i => exact fun h => ih (Nat.lt_of_succ_lt_succ hi) hb ((BitVec.xor_right_inj _).mp h)

end Sys2Proof

namespace Sys2Proof.Machine

/-! ### One header byte changed -/

section
variable {h : Header} {c b : Byte} {j : Nat}

theorem structureOk_latch (hj : j = 0 ∨ j = 4) (hs : h.structureOk = true) (hb : b ≠ h.bytes.getD j 0) :
    (h.latch j b).structureOk = false := by
  obtain ⟨h0, h4⟩ := Header.structureOk_iff.mp hs
  refine Bool.eq_false_iff.mpr fun hl => ?_
  obtain ⟨hl0, hl4⟩ := Header.structureOk_iff.mp hl
  rcases hj with rfl | rfl
  · exact hb (hl0.trans h0.symm)
  · exact hb (hl4.trans h4.symm)

theorem sequenceOk_latch (hs : h.sequenceOk c = true) (hb : b ≠ h.bytes.getD 1 0) :
    (h.latch 1 b).sequenceOk c = false := by
  refine Bool.eq_false_iff.mpr fun hl => hb ?_
  exact (BitVec.add_left_inj _).mp ((Header.sequenceOk_iff.mp hl).trans (Header.sequenceOk_iff.mp hs).symm)

/-- A header byte changed is that byte latched in its place. -/
theorem set_bytes_append (r : List Byte) (hj : j < 5) : (h.bytes ++ r).set j b = (h.latch j b).bytes ++ r := by
  rw [List.set_append_left _ _ hj, Header.bytes_latch b hj]

end

/-! ### The outcome by the place of the changed byte -/

section
variable {h : Header} {c : Byte} {m : Half} {body rest : List Byte}

/-- A body byte behind as many bytes as the header declares is taken for the checksum. -/
theorem awaitOutcome_of_shortened (hp : h.Passes c m) (hlt : h.length.toNat < body.length) :
    (body.getD h.length.toNat 0 = xorAll (h.bytes ++ body.take h.length.toNat) →
      AwaitOutcome c m (h.bytes ++ (body ++ rest))
        (.ok, body.take h.length.toNat, (body ++ rest).drop (h.length.toNat + 1))) ∧
    (body.getD h.length.toNat 0 ≠ xorAll (h.bytes ++ body.take h.length.toNat) →
      AwaitOutcome c m (h.bytes ++ (body ++ rest))
        (.checksumMismatch, [], (body ++ rest).drop (h.length.toNat + 1))) := by
  have hlen : (body.take h.length.toNat).length = h.length.toNat := List.length_take_of_le hlt.le
  have hsplit : h.bytes ++ (body ++ rest) = h.bytes ++ body.take h.length.toNat ++
      body.getD h.length.toNat 0 :: (body ++ rest).drop (h.length.toNat + 1) := by
    rw [List.getD_eq_getElem _ _ hlt, List.drop_append_of_le_length hlt, List.append_assoc, ← List.cons_append,
      List.cons_getElem_drop_succ, ← List.append_assoc (List.take _ _), List.take_append_drop]
  rw [hsplit]
  exact ⟨fun hb => hb ▸ .accepted hp hlen, fun hb => .mismatch hp hlen hb⟩

/-- A header as sent and a rest of the right length that does not balance with it. -/
theorem awaitOutcome_of_unbalanced {r : List Byte} (hp : h.Passes c m) (hl : r.length = h.length.toNat + 1)
    (hx : xorAll (h.bytes ++ r) ≠ 0x00) : AwaitOutcome c m (h.bytes ++ r) (.checksumMismatch, [], []) := by
  obtain ⟨body, b, rfl⟩ : ∃ body b, r = body ++ [b] :=
    ⟨_, _, (List.dropLast_append_getLast (List.ne_nil_of_length_eq_add_one hl)).symm⟩
  rw [← List.append_assoc] at hx ⊢
  exact .mismatch hp (by simpa using hl) fun h => hx ((xorAll_append_singleton_eq_zero_iff _ _).mpr h)

end

/-- The frame is its header and behind it the body and the checksum byte (R60). -/
theorem encodeV2_eq_frameHeader_append (x : Byte) (body : List Byte) :
    encodeV2 x body [] =
      (frameHeader x (.ofNat 16 body.length)).bytes ++ (body ++ [xorAll (framePre x body)]) := by
  rw [encodeV2_eq, List.append_nil, framePre, bytes_frameHeader, List.append_assoc]

section
variable {c x b : Byte} {m : Half} {body q : List Byte} {j : Nat} (hb : b ≠ (encodeV2 x body []).getD j 0)
  (hq : q = (encodeV2 x body []).set j b)
include hb hq

/-- The damaged frame does not balance (R66). -/
theorem xorAll_damaged (hj : j < 6 + body.length) : xorAll q ≠ 0x00 := by
  rw [hq, ← xorAll_encodeV2 x body []]
  exact xorAll_set_ne (by simpa using hj) hb

theorem damaged_constant (hj : j = 0 ∨ j = 4) : AwaitOutcome c m q (.malformedHeader, [], q.drop 5) := by
  rw [encodeV2_eq_frameHeader_append] at hb hq
  rw [hq, set_bytes_append _ (by omega)]
  refine .malformed (by simp) (structureOk_latch hj (Header.structureOk_iff.mpr ⟨rfl, rfl⟩) ?_)
  rcases hj with rfl | rfl <;> exact hb

theorem damaged_sequence (hx : x + 1 = c) (hj : j = 1) : AwaitOutcome c m q (.sequenceMismatch, [], q.drop 5) := by
  subst hj
  rw [encodeV2_eq_frameHeader_append] at hb hq
  rw [hq, set_bytes_append _ (by omega)]
  exact .wrongSequence (by simp) (Header.structureOk_iff.mpr ⟨rfl, rfl⟩)
    (sequenceOk_latch (Header.sequenceOk_iff.mpr hx) hb)

theorem damaged_rest (hx : x + 1 = c) (hl : body.length ≤ m.toNat) (hj : 5 ≤ j) (hlt : j < 6 + body.length) :
    AwaitOutcome c m q (.checksumMismatch, [], []) := by
  have hlen : (BitVec.ofNat 16 body.length).toNat = body.length := ofNat_toNat_of_le (by omega)
  have hne := xorAll_damaged hb hq hlt
  rw [hq, encodeV2_eq_frameHeader_append, List.set_append_right _ _ hj] at hne ⊢
  exact awaitOutcome_of_unbalanced (passes_frameHeader hx (hlen.trans_le hl)) (by simp [hlen]) hne

end

/-- A changed length field leaves a header that passes the checks before the size, in front of the same bytes. -/
theorem damaged_length {c x b : Byte} {body q : List Byte} {j : Nat} (hq : q = (encodeV2 x body []).set j b)
    (hx : x + 1 = c) (hj : j = 2 ∨ j = 3) :
    ∃ h : Header, q = h.bytes ++ (body ++ [xorAll (framePre x body)]) ∧ h.structureOk = true ∧
      h.sequenceOk c = true := by
  rw [encodeV2_eq_frameHeader_append] at hq
  refine ⟨(frameHeader x (.ofNat 16 body.length)).latch j b, hq.trans (set_bytes_append _ (by omega)),
    Header.structureOk_iff.mpr ?_, Header.sequenceOk_iff.mpr ?_⟩
  · rcases hj with rfl | rfl <;> exact ⟨rfl, rfl⟩
  · rcases hj with rfl | rfl <;> exact hx

/-- A body as long as the whole string allows is accepted only where the string balances. -/
theorem AwaitOutcome.balanced_of_whole {c : Byte} {m : Half} {q body rest : List Byte}
    (h : AwaitOutcome c m q (.ok, body, rest)) (hl : q.length = 6 + body.length) : xorAll q = 0x00 := by
  cases h with
  | @accepted h _ _ _ _ =>
    have hrest : rest = [] := by
      refine List.eq_nil_of_length_eq_zero ?_
      simp only [List.length_append, List.length_cons, Header.bytes_length] at hl
      omega
    rw [hrest]
    exact (xorAll_append_singleton_eq_zero_iff _ _).mpr rfl

/-! ### The run -/

/-- An ended `AWAIT` shows one code and one length. -/
theorem shows_unique {t : State} {o o' : Code × List Byte × List Byte} (h : t.shows o) (h' : t.shows o') :
    o.1 = o'.1 ∧ o.2.1.length = o'.2.1.length := by
  obtain ⟨-, hst, hlen, -⟩ := h
  obtain ⟨-, hst', hlen', -⟩ := h'
  exact ⟨hst.symm.trans hst', hlen.symm.trans hlen'⟩

theorem status_rxq_of_shows {t : State} {code : Code} {body rest : List Byte} (h : t.shows (code, body, rest)) :
    t.status = code ∧ t.rxq = rest := by
  obtain ⟨-, hst, -, -, hq⟩ := h
  exact ⟨hst, hq⟩

/-- Settles O29: the function `Await` of the damaged frame, by the place of the damaged byte; an outcome with the body
of the undamaged frame would have to balance. -/
theorem oneDamagedByte : Obligations.OneDamagedByte := by
  intro s x b body j m n evs hquiet hx hl hj hb hq
  obtain ⟨t, hst, hawait, -⟩ := awaitOnQuietLine s m n evs hquiet
  have hshows {o : Code × List Byte × List Byte} (ho : AwaitOutcome s.seq m s.rxq o) : t.shows o :=
    ho.result_eq ▸ hawait
  refine ⟨t, hst, hawait.1, fun h => ?_, fun h => ?_, fun h => ?_, fun h => ?_, fun h => ?_⟩
  · exact status_rxq_of_shows (hshows (damaged_constant hb hq h))
  · exact status_rxq_of_shows (hshows (damaged_sequence hb hq hx h))
  · obtain ⟨h, hbytes, hs, hseq⟩ := damaged_length hq hx h
    intro declared
    have hd : declared = h.length.toNat := by simp only [declared, hbytes]; exact h.length_toNat.symm
    have hdrop : s.rxq.drop 5 = body ++ [xorAll (framePre x body)] := by rw [hbytes]; rfl
    have hbehind : s.rxq.drop (6 + declared) = (body ++ [xorAll (framePre x body)]).drop (h.length.toNat + 1) := by
      rw [← hdrop, List.drop_drop, hd]
      congr 1
      omega
    rw [hdrop, hbehind, show s.rxq.take 5 = h.bytes by rw [hbytes]; rfl, hd]
    rw [hbytes] at hshows
    refine ⟨fun hlarge => ?_, fun hle hgt => ?_, fun hlt => ?_⟩
    · exact status_rxq_of_shows (hshows (.tooLarge (by simp) hs hseq hlarge))
    · exact status_rxq_of_shows (hshows (.cutShort (by simp) ⟨hs, hseq, hle⟩ (by simpa using hgt)))
    · obtain ⟨hok, hbad⟩ := awaitOutcome_of_shortened (rest := [xorAll (framePre x body)])
        ⟨hs, hseq, hlt.le.trans hl⟩ hlt
      exact ⟨fun he => hshows (hok he), fun he => hshows (hbad he)⟩
  · exact status_rxq_of_shows (hshows (damaged_rest hb hq hx hl h hj))
  · obtain ⟨⟨code, body', rest⟩, ho⟩ := exists_awaitOutcome s.seq m s.rxq
    obtain ⟨rfl, hlen⟩ : code = .ok ∧ body'.length = body.length := shows_unique (hshows ho) h
    exact xorAll_damaged hb hq hj (ho.balanced_of_whole (by rw [hq, hlen]; simp))

end Sys2Proof.Machine
end

section
/-! `FLUSH`, `NOP` and the reads, one operation or step at a time (R131 to R138). -/

namespace Sys2Proof.Machine

/-! ### `FLUSH` and `NOP` (R131 to R133) -/

theorem exec_flush_of_idle {s : State} (hp : s.phase = .idle) : exec .flush s = .next (acceptFlush s) :=
  whenIdle_idle _ _ hp

/-- Settles O33: the two things the acceptance of `FLUSH` can do, told apart by the queue. -/
theorem flushAccepted : Obligations.FlushAccepted := by
  intro s hp
  rw [exec_flush_of_idle hp]
  rcases acceptFlush_cases s with ⟨hq, h⟩ | ⟨hq, h⟩
  · exact ⟨fun _ => by rw [h], fun hne => absurd hq hne⟩
  · exact ⟨fun he => absurd he hq, fun _ => by rw [h]⟩

/-- Settles O34: the step is the transition that discards the last byte or the one that discards another. -/
theorem flushStepDiscards : Obligations.FlushStepDiscards := by
  intro s b rest hp hq h1
  by_cases hf : s.fln = 1
  · have h0 : s.fln - 1 = 0 := by omega
    rw [if_pos hf, ← h0]
    exact internal_of_blockMove (.flLast hp hq h0)
  · rw [if_neg hf]
    exact internal_of_blockMove (.flDiscard hp hq (by omega))

/-- Settles O36: in `IDLE` the command acts, and its action is the identity. -/
theorem nopChangesNothing : Obligations.NopChangesNothing :=
  fun _ hp => whenIdle_idle _ _ hp

/-! ### The reads (R134 to R138) -/

/-- Settles O38: zero-extension keeps the number. -/
theorem rdseqReadsSeq : Obligations.RdseqReadsSeq :=
  fun s => ⟨s.seq.setWidth 16, rfl, BitVec.toNat_setWidth_of_le (by decide)⟩

/-- Settles O40: `RESP_LEN` is the answer as it stands. -/
theorem rdlenReadsLength : Obligations.RdlenReadsLength :=
  fun _ => rfl

theorem exec_rdbody_of_lt {s : State} {i : Half} (h : i.toNat < s.respLen.toNat) :
    exec (.rdbody i) s = .next { s with rdOut := some ((s.bodyByte i.toNat).setWidth 16) } := by
  rw [exec, execRdbody, if_pos (BitVec.lt_def.mpr h), State.answer]

/-- At or past `RESP_LEN` an `RDBODY` is refused (R137). -/
theorem exec_rdbody_of_le {s : State} {i : Half} (h : s.respLen.toNat ≤ i.toNat) :
    exec (.rdbody i) s = .next { s with rdOut := none } := by
  rw [exec, execRdbody, if_neg (BitVec.not_lt.mpr h), State.answer]

/-- Settles O41: the two things `RDBODY` can do. -/
theorem rdbodyReadsBody : Obligations.RdbodyReadsBody :=
  fun _ _ => ⟨fun h => ⟨_, exec_rdbody_of_lt h, BitVec.toNat_setWidth_of_le (by decide)⟩, exec_rdbody_of_le⟩

/-- Settles O31: during an `AWAIT` `RESP_LEN` is 0, so every index is past it. -/
theorem nothingReadableEarly : Obligations.NothingReadableEarly := by
  intro s i h hr
  have hlen : s.respLen.toNat = 0 := by rw [h.nothingReadable hr]; rfl
  exact exec_rdbody_of_le (hlen ▸ Nat.zero_le _)

/-! ### The value of `RDSTAT` (R135) -/

/-- The value of `RDSTAT` bit by bit: `BUSY` in bit 7, the number of `STATUS`, which has four bits, in the others. -/
theorem getLsbD_statWord (s : State) (k : Nat) :
    s.statWord.getLsbD k = (decide (k = 7) && s.busy || s.status.bits.getLsbD k) := by
  have hhigh : 4 ≤ k → s.status.bits.getLsbD k = false := BitVec.getLsbD_of_ge _ k
  simp only [State.statWord, BitVec.getLsbD_or, BitVec.getLsbD_shiftLeft, BitVec.getLsbD_setWidth, BitVec.getLsbD_ofBool]
  grind

theorem extractLsb'_statWord (s : State) : s.statWord.extractLsb' 0 4 = s.status.bits := by
  refine BitVec.eq_of_getLsbD_eq fun i hi => ?_
  have h7 : i ≠ 7 := by omega
  simp [getLsbD_statWord, hi, h7]

theorem statWord_of_idle {s : State} (hp : s.phase = .idle) : s.statWord = s.status.bits.setWidth 16 := by
  simp [State.statWord, State.busy, hp]

theorem statWord_of_busy {s : State} (hp : s.phase ≠ .idle) (hst : s.status = .busy) : s.statWord = 0x008F := by
  have hb : s.busy = true := decide_eq_true hp
  rw [State.statWord, hb, hst]
  rfl

/-- The nine values `RDSTAT` can read (R135). -/
theorem statWord_mem {s : State} (h : Inv s) :
    s.statWord ∈ ([0x0000, 0x0001, 0x0002, 0x0003, 0x0004, 0x0005, 0x0009, 0x000A, 0x008F] : List Half) := by
  by_cases hp : s.phase = .idle
  · rw [statWord_of_idle hp]
    have hst : s.status ≠ .busy := fun hb => h.busyStatus.mp hb hp
    cases hc : s.status with
    | busy => exact absurd hc hst
    | ok | timeout | malformedHeader | sequenceMismatch | checksumMismatch | responseTooLarge | illegalCommand
    | illegalOperand => decide
  · rw [statWord_of_busy hp (h.busyStatus.mpr hp)]
    decide

/-- Settles O39: the bits of the value read, the number of each code, and the invariant that ties `STATUS` to `BUSY`. -/
theorem rdstatReadsStatus : Obligations.RdstatReadsStatus := by
  intro s
  have hcode {c : Code} (h : s.status = c) : s.statWord.extractLsb' 0 4 = c.bits := h ▸ extractLsb'_statWord s
  refine ⟨s.statWord, rfl, ?_, hcode, hcode, hcode, hcode, hcode, hcode, hcode, hcode, hcode, fun k h4 h7 => ?_,
    statWord_mem⟩
  · rw [getLsbD_statWord, BitVec.getLsbD_of_ge _ 7 (by decide)]
    simp [State.busy]
  · simp [getLsbD_statWord, h7, h4]

end Sys2Proof.Machine
end

section
/-! An accepted `FLUSH` as a whole (R132). The queue is in two parts: the bytes still to discard, in front, of which there
are as many as turns of the block to come, and behind them what has arrived since the acceptance. -/

namespace Sys2Proof.Machine

/-- A `FLUSH` with `n` bytes still to discard (R19), which has completed with `OK` when there are none. -/
inductive State.Flushing (s : State) : Nat → Prop where
  | completed : s.phase = .idle → s.status = .ok → s.Flushing 0
  | discarding {n : Nat} : s.phase = .fl → s.fln = n + 1 → s.Flushing (n + 1)

/-- The state without what the turns during a `FLUSH` write: `FLN`, `PHASE`, `STATUS` and the queue, and from outside the
read port and the agenda (R131, R132). -/
def State.besideFlush (s : State) : State :=
  { s with fln := 0, phase := .idle, status := .ok, rxq := [], rdOut := none, agenda := [] }

/-- During the run of a `FLUSH` that was accepted in `start` and during which the bytes `arr` arrive in all, with the
turns `evs` to come: nothing beside it has changed, and of the bytes that came behind those still to discard none is out
of order, and none is lost where the queue is unbounded. -/
structure FlushRun (start : State) (arr : List Byte) (evs : List Turn) (s : State) : Prop where
  beside : s.besideFlush = start.besideFlush
  flushing : s.Flushing (evs.count .block)
  queue : ∃ left late, s.rxq = left ++ late ∧ left.length = evs.count .block ∧
    (late ++ arrivals evs).Sublist arr ∧ (start.cfg.rxqCap = none → late ++ arrivals evs = arr)

section
variable {start s t : State} {arr : List Byte} {e : Turn} {evs later : List Turn}

theorem State.Flushing.not_isRx {n : Nat} (h : s.Flushing n) : s.phase.isRx = false := by
  cases h with
  | completed hp _ | discarding hp _ => rw [hp]; rfl

/-- It is these three registers that say so. -/
theorem State.Flushing.congr {n : Nat} (h : s.Flushing n) (hp : t.phase = s.phase) (hst : t.status = s.status)
    (hf : t.fln = s.fln) : t.Flushing n := by
  cases h with
  | completed hi hok => exact .completed (hp.trans hi) (hst.trans hok)
  | discarding hi hn => exact .discarding (hp.trans hi) (hf.trans hn)

/-- With bytes still to discard the block's transition discards the head of the queue (R132). -/
theorem State.Flushing.exists_move {n : Nat} {b : Byte} {rest : List Byte} (h : s.Flushing (n + 1))
    (hq : s.rxq = b :: rest) :
    ∃ t, BlockMove s t ∧ t.Flushing n ∧ t.rxq = rest ∧ t.besideFlush = s.besideFlush := by
  obtain ⟨hp, hf⟩ : s.phase = .fl ∧ s.fln = n + 1 := by cases h with | discarding hp hf => exact ⟨hp, hf⟩
  have hleft : s.fln - 1 = n := by omega
  cases n with
  | zero => exact ⟨_, .flLast hp hq hleft, .completed rfl rfl, rfl, rfl⟩
  | succ n => exact ⟨_, .flDiscard hp hq (by omega), .discarding hp hleft, rfl, rfl⟩

/-- What a `FLUSH` leaves alone: the parameters, `SEQ`, the body of the last response, `TIMER`, `TXLOG` and the
offers. -/
theorem FlushRun.fields (h : FlushRun start arr evs s) :
    s.cfg = start.cfg ∧ s.seq = start.seq ∧ SameBody start s ∧ s.timer = start.timer ∧ s.txlog = start.txlog ∧
      s.cmdPort = start.cmdPort :=
  ⟨(congrArg State.cfg h.beside :), (congrArg State.seq h.beside :),
    ⟨(congrArg State.respLen h.beside :), fun i => (congrArg (fun u => u.bodyByte i) h.beside :)⟩,
    (congrArg State.timer h.beside :), (congrArg State.txlog h.beside :), (congrArg State.cmdPort h.beside :)⟩

/-- Right after the acceptance everything buffered is to discard, and nothing where the queue is empty (R131). -/
theorem flushRun_start (hp : s.phase = .idle) (hn : evs.count .block = s.rxq.length) :
    FlushRun s (arrivals evs) evs (acceptFlush s) := by
  have hqueue : ∃ left late, s.rxq = left ++ late ∧ left.length = evs.count .block ∧
      (late ++ arrivals evs).Sublist (arrivals evs) ∧ (s.cfg.rxqCap = none → late ++ arrivals evs = arrivals evs) :=
    ⟨s.rxq, [], (List.append_nil _).symm, hn.symm, .refl _, fun _ => rfl⟩
  rcases acceptFlush_cases s with ⟨hq, h⟩ | ⟨hq, h⟩ <;> rw [h]
  · exact ⟨rfl, by rw [hn, hq]; exact .completed hp rfl, hqueue⟩
  · obtain ⟨n, hl⟩ : ∃ n, s.rxq.length = n + 1 := Nat.exists_eq_add_one.mpr (List.length_pos_iff.mpr hq)
    exact ⟨rfl, by rw [hn.trans hl]; exact .discarding rfl hl, hqueue⟩

@[simp] theorem acceptFlush_agenda (s : State) : (acceptFlush s).agenda = s.agenda := by
  rcases acceptFlush_cases s with ⟨-, h⟩ | ⟨-, h⟩ <;> rw [h]

/-- The block's turn discards one of the bytes buffered at the acceptance. -/
theorem FlushRun.block (h : FlushRun start arr (.block :: evs) s) (ha : s.agenda = .block :: later) :
    ∃ t, step s = .next t ∧ t.agenda = later ∧ FlushRun start arr evs t := by
  have hcount : (Turn.block :: evs).count .block = evs.count .block + 1 := List.count_cons_self
  obtain ⟨left, late, hq, hlen, hsub, hall⟩ := h.queue
  have hfl := h.flushing
  rw [hcount] at hlen hfl
  obtain ⟨b, left, rfl⟩ := List.exists_cons_of_length_eq_add_one hlen
  have hs : State.Flushing { s with agenda := later } (evs.count .block + 1) :=
    hfl.congr rfl rfl rfl
  obtain ⟨t, hm, hflt, hqt, hb⟩ := hs.exists_move hq
  exact ⟨t, (step_of_agenda_cons ha).trans (internal_of_blockMove hm), hm.agenda_eq, hb.trans h.beside, hflt,
    left, late, hqt, Nat.succ.inj hlen, hsub, hall⟩

/-- Every other calm turn brings at most bytes for the queue and an answer. -/
theorem FlushRun.outside (h : FlushRun start arr (e :: evs) s) (ha : s.agenda = e :: later) (hc : e.calm = true)
    (hb : e ≠ .block) : ∃ t, step s = .next t ∧ t.agenda = later ∧ FlushRun start arr evs t := by
  have hcount : (e :: evs).count .block = evs.count .block := List.count_cons_of_ne hb
  obtain ⟨left, late, hq, hlen, hsub, hall⟩ := h.queue
  have hfl := h.flushing
  rw [hcount] at hlen hfl
  obtain ⟨d, ht⟩ := takeTurn_calm (s := { s with agenda := later }) hc hb hfl.not_isRx
  obtain ⟨new, hnew, hnewSub, hnewAll⟩ := arriveAll_rxq_sublist { s with agenda := later } (arrivals [e])
  refine ⟨_, (step_of_agenda_cons ha).trans ht, rfl, ?_⟩
  rw [arrivals_cons e evs] at hsub hall
  exact {
    beside := h.beside
    flushing := hfl.congr rfl rfl rfl
    queue := ⟨left, late ++ new, by rw [← List.append_assoc, ← hq]; exact hnew, hlen,
      by rw [List.append_assoc]; exact ((hnewSub.append_right _).append_left _).trans hsub,
      fun hcap => by rw [hnewAll (h.fields.1 ▸ hcap), List.append_assoc, hall hcap]⟩ }

/-- With the turns used up the `FLUSH` has completed with `OK`, and what arrived is all that is queued. -/
theorem FlushRun.finished (h : FlushRun start arr [] s) :
    s.phase = .idle ∧ s.status = .ok ∧ s.rxq.Sublist arr ∧ (start.cfg.rxqCap = none → s.rxq = arr) := by
  obtain ⟨left, late, hq, hlen, hsub, hall⟩ := h.queue
  obtain rfl : left = [] := List.eq_nil_of_length_eq_zero hlen
  rw [List.nil_append] at hq
  rw [arrivals, List.append_nil, ← hq] at hsub hall
  cases h.flushing with | completed hp hst => exact ⟨hp, hst, hsub, hall⟩

end

/-- A `FLUSH` that has been accepted runs to its end (R132). -/
theorem flushRun_ends {start s : State} {arr : List Byte} {evs : List Turn} (h : FlushRun start arr evs s)
    (hcalm : ∀ e ∈ evs, e.calm = true) (ha : s.agenda = evs) :
    ∃ t, steps evs.length s = .next t ∧ FlushRun start arr [] t := by
  have hturn (e : Turn) (evs : List Turn) (s : State) (later : List Turn) (hc : e.calm = true)
      (ha : s.agenda = e :: later) (h : FlushRun start arr (e :: evs) s) :
      ∃ t, step s = .next t ∧ t.agenda = later ∧ FlushRun start arr evs t := by
    by_cases hb : e = .block
    · subst hb
      exact h.block ha
    · exact h.outside ha hc hb
  obtain ⟨t, ht, -, hrun⟩ := steps_turns hturn hcalm (ha.trans (List.append_nil evs).symm) h
  exact ⟨t, ht, hrun⟩

/-- The turn of the command port accepts the `FLUSH` offered there (R72, R131). -/
theorem commandTurn_flush {s : State} {later : List (List CmdWord)} (hp : s.phase = .idle)
    (hc : s.cmdPort = [plainWord 0b0011] :: later) :
    commandTurn s = .next (acceptFlush { s with cmdPort := later }) := by
  have hd : decode (.command [plainWord 0b0011]) = .ok .flush := rfl
  rw [commandTurn_of_decode hc hd, exec_flush_of_idle (s := { s with cmdPort := later }) hp]

/-- Settles O35: the turn of the command port accepts the `FLUSH`, which then runs to its end. -/
theorem flushRemovesTheSnapshot : Obligations.FlushRemovesTheSnapshot := by
  intro s later evs hp hc ha hcalm hn
  have hfirst : step s = .next (acceptFlush { s with agenda := evs, cmdPort := later }) := by
    rw [step_of_agenda_cons ha]
    exact commandTurn_flush (s := { s with agenda := evs }) hp hc
  have hstart := flushRun_start (s := { s with agenda := evs, cmdPort := later }) hp hn
  obtain ⟨t, ht, hrun⟩ := flushRun_ends hstart hcalm (acceptFlush_agenda _)
  obtain ⟨hphase, hstatus, hsub, hall⟩ := hrun.finished
  obtain ⟨-, hseq, ⟨hlen, hbody⟩, htimer, hlog, hport⟩ := hrun.fields
  exact ⟨t, by rw [Nat.add_comm, steps_succ _ hfirst]; exact ht, hsub, hall, hstatus, hphase, hseq, hlen, hbody,
    htimer, hlog, hport⟩

end Sys2Proof.Machine
end

section
/-! Failure and the timer (R161 to R165): what a turn of the block makes of an `AWAIT` in any state, whatever it has
received, and that it ends once its timer can run out. -/

namespace Sys2Proof.Machine

/-! ### The timer (R161) -/

theorem isRx_iff_mem {p : Phase} : p.isRx = true ↔ p ∈ [.rxWait, .rxHdr, .rxChk, .rxBody, .rxCks] := by
  cases p <;> decide

/-- Settles O46: a tick counts in the phases of an `AWAIT` only, and at 0 the subtraction stays at 0. -/
theorem tickCountsDown : Obligations.TickCountsDown := by
  intro s
  rw [← isRx_iff_mem]
  refine ⟨fun hr _ => by simp [takeTurn, tickEvent, hr], fun h => ?_⟩
  rcases h with hr | h0
  · simp [takeTurn, tickEvent, hr]
  · have hsame : (if s.phase.isRx then s.timer - 1 else s.timer) = s.timer := by split <;> omega
    rw [takeTurn, tickEvent, hsame]

/-! ### How a turn of the block leaves an `AWAIT` (R165) -/

/-- The failure kinds (R21, R165). -/
def failureCodes : List Code := [.timeout, .malformedHeader, .sequenceMismatch, .responseTooLarge, .checksumMismatch]

/-- What a turn of the block makes of an `AWAIT`: it waits, it enters failure with at most one byte consumed and perhaps
`SIZE` set (R107, R165), it completes with `OK`, or it goes on and comes nearer to its end by a byte or a phase. -/
inductive AwaitEffect (s : State) : State → Prop where
  | waits : s.Stalled → AwaitEffect s s
  | fails {rest : List Byte} {size : Half} {c : Code} : rest = s.rxq ∨ (∃ b, s.rxq = b :: rest) → c ∈ failureCodes →
      AwaitEffect s ({ s with rxq := rest, size := size }.fail c)
  | completes {t : State} : t.phase = .idle → t.status = .ok → AwaitEffect s t
  | goesOn {t : State} : t.phase.isRx = true →
      t.rxq.length + t.phase.turnsAside < s.rxq.length + s.phase.turnsAside → AwaitEffect s t

section
variable {s t : State}

theorem isRx_latchByte (s : State) (b : Byte) (rest : List Byte) : (s.latchByte b rest).phase.isRx = true := by
  unfold State.latchByte
  dsimp only
  split <;> rfl

theorem isRx_passHeader (s : State) : s.passHeader.phase.isRx = true := by
  unfold State.passHeader
  dsimp only
  split <;> rfl

theorem isRx_storeByte (s : State) (b : Byte) (rest : List Byte) : (s.storeByte b rest).phase.isRx = true := by
  unfold State.storeByte
  dsimp only
  split <;> rfl

theorem BlockMove.awaitEffect (hm : BlockMove s t) (hr : s.phase.isRx = true) : AwaitEffect s t := by
  have hn {p : Phase} (hp : s.phase = p) (hi : p.isRx = false) : False := by simp [hp, hi] at hr
  cases hm with
  | stalled hs => exact .waits hs
  | timeout _ _ | rxMalformed _ _ | rxWrongSequence _ _ _ | rxTooLarge _ _ _ _ =>
    exact .fails (.inl rfl) (by decide)
  | rxMismatch _ hq _ => exact .fails (size := s.size) (.inr ⟨_, hq⟩) (by decide)
  | rxAccepted _ _ => exact .completes rfl rfl
  | rxStart hp _ => exact .goesOn rfl (hp ▸ Nat.lt_succ_self _)
  | rxHeader hp hq _ =>
    refine .goesOn (isRx_latchByte s _ _) ?_
    rw [turnsAside_latchByte, hp, hq]
    exact Nat.lt_succ_self _
  | rxHeaderPassed hp _ _ _ =>
    refine .goesOn (isRx_passHeader s) ?_
    rw [turnsAside_passHeader, hp]
    exact Nat.lt_succ_self _
  | rxBody hp hq _ =>
    refine .goesOn (isRx_storeByte s _ _) ?_
    rw [turnsAside_storeByte, hp, hq]
    exact Nat.lt_succ_self _
  | txHeader hp _ _ _ | txHeaderLast hp _ _ _ | txBody hp _ _ _ | txBodyLast hp _ _ _ | txChecksum hp _
  | flDiscard hp _ _ | flLast hp _ _ => exact (hn hp rfl).elim

/-- Settles O18: of what a turn of the block makes of an `AWAIT` only a failure ends it otherwise than `OK`, and every
failure is the shared entry. -/
theorem failureEntry : Obligations.FailureEntry := by
  refine ⟨fun s c => ⟨rfl, fun _ => rfl, rfl⟩, fun s t hr hst hp hok => ?_⟩
  cases (blockMove_of_internal hst).awaitEffect hr with
  | waits _ => rw [hp] at hr; cases hr
  | fails hq hc => exact ⟨rfl, fun _ => rfl, hq, hc⟩
  | completes _ h => exact absurd h hok
  | goesOn h _ => rw [hp] at h; cases h

/-! ### An `AWAIT` from any state with the invariants (R163) -/

/-- During an `AWAIT` the block has a transition; the indices are where `Inv` has them (R13, R28). -/
theorem Inv.exists_awaitMove (h : Inv s) (hr : s.phase.isRx = true) : ∃ t, BlockMove s t := by
  cases hp : s.phase
  case rxWait =>
    by_cases h6 : 6 ≤ s.rxq.length
    · exact ⟨_, .rxStart hp h6⟩
    · exact ⟨_, .expire ((dataMissing_rxWait hp).mpr (Nat.not_le.mp h6))⟩
  case rxHdr =>
    obtain ⟨hi, h6⟩ := h.headerBuffered hp
    cases hq : s.rxq with
    | nil => rw [hq, List.length_nil] at h6; omega
    | cons b rest => exact ⟨_, .rxHeader hp hq hi⟩
  case rxChk => exact ⟨_, blockMove_of_internal (headerChecksInOrder s hp)⟩
  case rxBody =>
    cases hq : s.rxq with
    | nil => exact ⟨_, .expire ((dataMissing_rxBody hp).mpr hq)⟩
    | cons b rest =>
      obtain ⟨hlt, hle, -⟩ := h.bodyIndex hp
      exact ⟨_, .rxBody hp hq (hlt.trans_le (hle.trans (h.maxlenInBuffer hr)))⟩
  case rxCks =>
    cases hq : s.rxq with
    | nil => exact ⟨_, .expire ((dataMissing_rxCks hp).mpr hq)⟩
    | cons b rest =>
      by_cases hb : b = s.cks
      · exact ⟨_, .rxAccepted hp (hb ▸ hq)⟩
      · exact ⟨_, .rxMismatch hp hq hb⟩
  all_goals rw [hp] at hr; cases hr

/-- An `AWAIT` stands still only where it waits for data with time left (R162): in `RX_HDR` a byte is there (R28 (c)). -/
theorem Inv.timer_pos_of_stalled (h : Inv s) (hr : s.phase.isRx = true) (hs : s.Stalled) : 0 < s.timer := by
  cases hp : s.phase <;> simp only [State.Stalled, hp] at hs
  case rxWait | rxBody | rxCks => exact hs.2
  case rxHdr =>
    have := h.headerBuffered hp
    rw [hs, List.length_nil] at this
    omega
  all_goals rw [hp] at hr; cases hr

/-- The state of an `AWAIT` in progress or ended, reached in whatever way: nothing ties the header and the bytes consumed
to each other, as `State.Awaiting` does for a run from the acceptance. -/
structure State.AwaitOrIdle (s : State) : Prop where
  inv : Inv s
  phase : s.phase.isRx = true ∨ s.phase = .idle

/-- How many turns of the block an `AWAIT` still takes at most, with no more arrivals and no wait: one a byte, one a phase
that consumes none, and one to end. -/
def State.turnsToEnd (s : State) : Nat :=
  if s.phase.isRx then s.rxq.length + s.phase.turnsAside + 1 else 0

theorem turnsToEnd_of_isRx (hr : s.phase.isRx = true) : s.turnsToEnd = s.rxq.length + s.phase.turnsAside + 1 :=
  if_pos hr

theorem turnsToEnd_of_idle (hp : s.phase = .idle) : s.turnsToEnd = 0 := by
  simp [State.turnsToEnd, hp, Phase.isRx]

theorem turnsToEnd_le (s : State) : s.turnsToEnd ≤ s.rxq.length + 3 := by
  have : s.phase.turnsAside ≤ 2 := by cases s.phase <;> decide
  unfold State.turnsToEnd
  split <;> omega

theorem State.AwaitOrIdle.idle_of_turnsToEnd (h : s.AwaitOrIdle) (h0 : s.turnsToEnd = 0) : s.phase = .idle := by
  refine h.phase.resolve_left fun hr => ?_
  rw [turnsToEnd_of_isRx hr] at h0
  omega

/-- What the block's turn does to an `AWAIT` in progress or ended; it waits only while there is time left. -/
structure AwaitNearer (s t : State) : Prop where
  move : BlockMove s t
  awaitOrIdle : t.AwaitOrIdle
  isRx : t.phase.isRx = true → s.phase.isRx = true
  timer : t.timer = s.timer
  nearer : (s.phase.isRx = true → s.timer = 0) → t.turnsToEnd ≤ s.turnsToEnd - 1

theorem State.AwaitOrIdle.exists_nearer (h : s.AwaitOrIdle) : ∃ t, AwaitNearer s t := by
  rcases h.phase with hr | hp
  · obtain ⟨t, hm⟩ := h.inv.exists_awaitMove hr
    have htimer : t.timer = s.timer := (congrArg State.timer (hm.besideAwait hr) :)
    have hleft := turnsToEnd_of_isRx hr
    have hend (hp : t.phase = .idle) : AwaitNearer s t :=
      ⟨hm, ⟨hm.inv h.inv, .inr hp⟩, fun _ => hr, htimer, fun _ => (turnsToEnd_of_idle hp).trans_le (Nat.zero_le _)⟩
    refine ⟨t, ?_⟩
    cases hm.awaitEffect hr with
    | waits hs =>
      have hpos := h.inv.timer_pos_of_stalled hr hs
      exact ⟨hm, h, id, rfl, fun h0 => absurd (h0 hr) hpos.ne'⟩
    | fails _ _ => exact hend rfl
    | completes hp _ => exact hend hp
    | goesOn hr' hlt =>
      refine ⟨hm, ⟨hm.inv h.inv, .inl hr'⟩, fun _ => hr, htimer, fun _ => ?_⟩
      rw [turnsToEnd_of_isRx hr', hleft]
      omega
  · have hs : s.Stalled := by simp only [State.Stalled, hp]
    exact ⟨s, .stalled hs, h, id, rfl, fun _ => (turnsToEnd_of_idle hp).trans_le (Nat.zero_le _)⟩

/-- No transition of the block lengthens the queue. -/
theorem BlockMove.rxq_length_le (hm : BlockMove s t) : t.rxq.length ≤ s.rxq.length := by
  rcases hm.rxq_cases with h | ⟨-, b, h⟩
  · exact (congrArg List.length h).le
  · rw [h]
    exact Nat.le_succ _

end

/-! ### The run -/

section
variable {s : State} {e : Turn} {evs later : List Turn} {n : Nat}

theorem State.AwaitOrIdle.withAgenda (h : s.AwaitOrIdle) (later : List Turn) :
    State.AwaitOrIdle { s with agenda := later } :=
  ⟨{ h.inv with }, h.phase⟩

theorem State.AwaitOrIdle.step_block (h : s.AwaitOrIdle) (ha : s.agenda = .block :: later) :
    ∃ t, step s = .next t ∧ t.agenda = later ∧ AwaitNearer { s with agenda := later } t := by
  obtain ⟨t, ht⟩ := (h.withAgenda later).exists_nearer
  exact ⟨t, (step_of_agenda_cons ha).trans (internal_of_blockMove ht.move), ht.move.agenda_eq, ht⟩

/-- An `AWAIT` whose timer the ticks among the turns `evs` bring to 0, with at most `n` bytes buffered and to come. -/
structure RunsOut (n : Nat) (evs : List Turn) (s : State) : Prop where
  awaitOrIdle : s.AwaitOrIdle
  timer : s.phase.isRx = true → s.timer ≤ evs.count .tick
  bytes : s.rxq.length + (arrivals evs).length ≤ n

theorem RunsOut.step (hc : e.calm = true) (ha : s.agenda = e :: later) (h : RunsOut n (e :: evs) s) :
    ∃ t, step s = .next t ∧ t.agenda = later ∧ RunsOut n evs t := by
  have hbytes := h.bytes
  rw [arrivals_cons, List.length_append] at hbytes
  by_cases hb : e = .block
  · subst hb
    obtain ⟨t, ht, hta, hmove⟩ := h.awaitOrIdle.step_block ha
    exact ⟨t, ht, hta, hmove.awaitOrIdle, fun hr => hmove.timer ▸ h.timer (hmove.isRx hr),
      (Nat.add_le_add_right hmove.move.rxq_length_le _).trans (by simpa [arrivals] using hbytes)⟩
  · obtain ⟨d, ht⟩ := takeTurn_outside { s with agenda := later } hc hb
    obtain ⟨more, hq, hsub, -⟩ := arriveAll_rxq_sublist { s with agenda := later } (arrivals [e])
    have hst := (step_of_agenda_cons ha).trans ht
    refine ⟨_, hst, rfl, ⟨everyStepKeepsInv s _ h.awaitOrIdle.inv hst, h.awaitOrIdle.phase⟩,
      fun (hr : s.phase.isRx = true) => ?_, ?_⟩
    · have hle := h.timer hr
      rw [← List.singleton_append, List.count_append] at hle
      simp only [State.outside, hr, if_true]
      omega
    · have hlen := hsub.length_le
      simp only [State.outside, State.answer_rxq, hq, List.length_append]
      omega

/-- An `AWAIT` whose timer is at 0, with enough turns of the block to come. -/
structure RunsDown (evs : List Turn) (s : State) : Prop where
  awaitOrIdle : s.AwaitOrIdle
  timer : s.phase.isRx = true → s.timer = 0
  enough : s.turnsToEnd ≤ evs.count .block

theorem RunsDown.step (he : e = .block) (ha : s.agenda = e :: later) (h : RunsDown (e :: evs) s) :
    ∃ t, step s = .next t ∧ t.agenda = later ∧ RunsDown evs t := by
  subst he
  obtain ⟨t, ht, hta, hmove⟩ := h.awaitOrIdle.step_block ha
  have hleft := h.enough
  rw [List.count_cons_self] at hleft
  exact ⟨t, ht, hta, hmove.awaitOrIdle, fun hr => hmove.timer ▸ h.timer (hmove.isRx hr),
    (hmove.nearer h.timer).trans (Nat.sub_le_of_le_add hleft)⟩

end

/-- Settles O32: the ticks bring the timer to 0, and from then on every turn of the block brings the end nearer. -/
theorem awaitTerminates : Obligations.AwaitTerminates := by
  intro s evs hi hr hcalm hticks ha
  obtain ⟨u, hu, hua, hout⟩ := steps_turns (fun _ _ _ _ => RunsOut.step) hcalm ha
    ⟨⟨hi, .inl hr⟩, fun _ => hticks, Nat.le_refl _⟩
  have hq : u.rxq.length ≤ s.rxq.length + (arrivals evs).length := hout.bytes
  have hdown : RunsDown (List.replicate (s.rxq.length + (arrivals evs).length + 8) .block) u := by
    refine ⟨hout.awaitOrIdle, fun hr => Nat.le_zero.mp (hout.timer hr), ?_⟩
    have := turnsToEnd_le u
    rw [List.count_replicate_self]
    omega
  obtain ⟨t, ht, -, hend⟩ := steps_turns (fun _ _ _ _ => RunsDown.step) (fun e he => List.eq_of_mem_replicate he)
    (hua.trans (List.append_nil _).symm) hdown
  refine ⟨t, ?_, hend.awaitOrIdle.idle_of_turnsToEnd (Nat.le_zero.mp hend.enough)⟩
  rw [ha, List.length_append, steps_add _ _ hu, ht]

end Sys2Proof.Machine
end

section
/-! The event `rst` (R180) and the end of a run (R195): what a turn can still do when no operation is in progress, no
command is offered and no read is to come. -/

namespace Sys2Proof.Machine

/-- Settles O47: `rstEvent` is the state the event leads to, and it has forgotten `BODY`. (`rstEvent` itself names the
model's function.) -/
theorem rstEvent_resets : Obligations.RstEvent := fun s =>
  ⟨rstEvent s, rfl, rfl, bodyKnown_forgetBody s⟩

section
variable {s : State} {e : Turn}

theorem State.ended_iff : s.ended = true ↔ s.phase = .idle ∧ s.cmdPort = [] ∧ ∀ e ∈ s.agenda, e.isRead = false :=
  decide_eq_true_iff

/-- With no turn named in an idle block, the command port has the turn (log 3). -/
theorem State.turn_of_agenda_nil (hp : s.phase = .idle) (ha : s.agenda = []) : s.turn = .command := by
  simp [State.turn, ha, defaultTurn, hp]

theorem State.afterTurn_of_agenda_nil (ha : s.agenda = []) : s.afterTurn = s := by
  cases s; cases ha; rfl

/-- In `IDLE` the turn of the block finds no transition, that of a command port without offers nothing to take up, and a
tick no `AWAIT` to count for (log 29). -/
theorem takeTurn_of_nothing_to_do (hp : s.phase = .idle) (hc : s.cmdPort = [])
    (he : e = .block ∨ e = .command ∨ e = .tick) : takeTurn e s = .next s := by
  rcases he with rfl | rfl | rfl
  · exact internal_of_stalled (by simp [State.Stalled, hp])
  · simp only [takeTurn, commandTurn, hc]
  · exact (tickCountsDown s).2 (.inl (by simp [hp]))

/-- Of the bytes a turn brings on the line some join the queue, in order, and nothing else changes (R24, log 16). -/
theorem takeTurn_of_arrival {bytes : List Byte} (s : State) (he : e = .wire bytes ∨ ∃ b, e = .arrive b ∧ bytes = [b]) :
    ∃ more : List Byte, more.Sublist bytes ∧ takeTurn e s = .next { s with rxq := s.rxq ++ more } := by
  have hturn : takeTurn e s = .next (s.arriveAll bytes) := by
    rcases he with rfl | ⟨b, rfl, rfl⟩
    · exact wireTurn_eq bytes s
    · rfl
  obtain ⟨more, hq, hsub, -⟩ := arriveAll_rxq_sublist s bytes
  exact ⟨more, hsub, by rw [hturn, ← hq]; rfl⟩

/-- Everything a turn that is no read can do in `IDLE` with no command offered: it is a reset, or it changes nothing but
the queue, by appending, and the Transport's readiness. -/
theorem takeTurn_idle_cases (hp : s.phase = .idle) (hc : s.cmdPort = []) (hr : e.isRead = false) :
    (e = .rst ∧ takeTurn e s = .next (rstEvent s)) ∨
      ∃ more r, takeTurn e s = .next { s with rxq := s.rxq ++ more, txReady := r } := by
  have hsame : s = { s with rxq := s.rxq ++ [] } := by rw [List.append_nil]
  cases e with
  | read w => cases hr
  | rst => exact .inl ⟨rfl, rfl⟩
  | block | command | tick =>
    exact .inr ⟨[], s.txReady, (takeTurn_of_nothing_to_do hp hc (by simp)).trans (congrArg _ hsame)⟩
  | wire bytes =>
    obtain ⟨more, -, h⟩ := takeTurn_of_arrival s (.inl rfl)
    exact .inr ⟨more, s.txReady, h⟩
  | arrive b =>
    obtain ⟨more, -, h⟩ := takeTurn_of_arrival s (.inr ⟨b, rfl, rfl⟩)
    exact .inr ⟨more, s.txReady, h⟩
  | txReady r => exact .inr ⟨[], r, by rw [List.append_nil]; rfl⟩

/-- The next turn of an ended run is no read, and taking it off the agenda leaves the run ended. -/
theorem State.ended_turn (h : s.ended = true) : s.turn.isRead = false ∧ s.afterTurn.ended = true := by
  obtain ⟨hp, hc, hread⟩ := State.ended_iff.mp h
  refine ⟨?_, State.ended_iff.mpr ⟨hp, hc, fun e he => hread e (List.mem_of_mem_tail he)⟩⟩
  cases ha : s.agenda with
  | nil => rw [State.turn_of_agenda_nil hp ha]; rfl
  | cons e later =>
    rw [State.turn, ha]
    exact hread e (by simp [ha])

/-- A reset does not offer a command or ask for a read, so it leaves an ended run ended. -/
theorem rstEvent_ended (h : s.ended = true) : (rstEvent s).ended = true :=
  State.ended_iff.mpr ⟨rfl, (State.ended_iff.mp h).2⟩

end

/-- Settles O60: the clauses by kind of turn are the lemmas about such a turn in `IDLE`; the last one is by whether the
turn is a reset. -/
theorem endedRunRests : Obligations.EndedRunRests := by
  intro s h
  obtain ⟨hp, hc, -⟩ := State.ended_iff.mp h
  obtain ⟨hread, hafter⟩ := s.ended_turn h
  have hrests (he : s.turn = .block ∨ s.turn = .command ∨ s.turn = .tick) : step s = .next s.afterTurn :=
    (step_eq s).trans (takeTurn_of_nothing_to_do hp hc he)
  refine ⟨fun ha => ?_, hrests, fun r hr => ?_, fun bytes hb => ?_, ?_⟩
  · rw [hrests (.inr (.inl (s.turn_of_agenda_nil hp ha))), s.afterTurn_of_agenda_nil ha]
  · rw [step_eq, hr]; rfl
  · rw [step_eq]
    exact takeTurn_of_arrival s.afterTurn hb
  · rw [step_eq]
    rcases takeTurn_idle_cases (s := s.afterTurn) hp hc hread with ⟨hrst, ht⟩ | ⟨more, r, ht⟩
    · exact ⟨_, ht, rstEvent_ended hafter, rfl, rfl, ⟨[], (List.append_nil _).symm⟩, fun hne => absurd hrst hne⟩
    · exact ⟨_, ht, hafter, rfl, rfl, ⟨more, rfl⟩, fun _ => rfl⟩

end Sys2Proof.Machine
end
